-- ==== Sys2Proof/Word.lean ====
section
/-! DEFINITION. Bits, words and bytes of CORE, and the plainest ways to read them (spec/00_scope.md section 4). -/

namespace Sys2Proof

/-- A Bit, "domain strictly {0, 1}" (R10), two-valued by 92_eei_decisions.md D1: one wire. -/
abbrev Bit := Bool

/-- A Word16, a bus of 16 Bits (R11). By D5 bit k of the BitVec is `W[k]`, of weight 2^k. -/
abbrev Word16 := BitVec 16

/-- A Bit as the raw interface carries it: a byte 0..255 (92_eei_decisions.md D2). -/
abbrev Byte := BitVec 8

/-- A Word16 as the raw interface carries it: sixteen bytes in SOURCE INDEX order, index 0 the most
significant (R11, D2). -/
abbrev RawWord := Vector Byte 16

/-- A name of a netlist (R81): one wire or bus. Names are numbers here (log entry 18). -/
abbrev Name := Nat

/-- `W⟨i⟩`, the element at source index i, which is `W[15 − i]` (R11). -/
def Word16.elem (W : Word16) (i : Fin 16) : Bit := W.getLsbD (15 - i.val)

/-- `val(W)`, the unsigned reading (R12). -/
def Word16.val (W : Word16) : Nat := W.toNat

/-- `sval(W) = val(W) − 65536·W[15]`, the two's-complement reading (R12). -/
def Word16.sval (W : Word16) : Int := (W.toNat : Int) - if W.getLsbD 15 then 65536 else 0

/-- The byte the raw interface carries for a legal Bit. -/
def Byte.ofBit (b : Bit) : Byte := if b then 1#8 else 0#8

end Sys2Proof
end

