-- ==== Sys2Proof/Syntax.lean ====
section
/-! DEFINITION. The units of CORE with their ports (R3, R70), the sources of a port, and `Instr`: one evaluation
of one unit, which is one line of a netlist (R14, R81). Every row of spec/opcode_table.json is one constructor. -/

namespace Sys2Proof

/-- The thirteen units of CORE (R3). -/
inductive Cell where
  | and | or | not | nand | xor
  | halfAdder | fullAdder | adder16 | inc16 | mux16 | not16 | and16
  | alu
deriving DecidableEq, Repr

/-- The input ports' names (R70). -/
inductive PortName where
  | a | b | c | A | B | sel | x | y | zx | nx | zy | ny | f | no
deriving DecidableEq, Repr

/-- The two port widths (R70): a Bit port is one wire, a Word16 port is a 16-wire bus. -/
inductive Width where
  | bit | word
deriving DecidableEq, Repr

/-- The input ports of every unit, in the order of the table of R70. -/
def Cell.inputs : Cell → List (PortName × Width)
  | .and | .or | .nand | .xor | .halfAdder => [(.a, .bit), (.b, .bit)]
  | .not => [(.a, .bit)]
  | .fullAdder => [(.a, .bit), (.b, .bit), (.c, .bit)]
  | .adder16 | .and16 => [(.A, .word), (.B, .word)]
  | .inc16 | .not16 => [(.A, .word)]
  | .mux16 => [(.A, .word), (.B, .word), (.sel, .bit)]
  | .alu => [(.x, .word), (.y, .word), (.zx, .bit), (.nx, .bit), (.zy, .bit), (.ny, .bit), (.f, .bit), (.no, .bit)]

/-- The widths of the output ports of every unit, in the order of the table of R70. -/
def Cell.outputs : Cell → List Width
  | .and | .or | .not | .nand | .xor => [.bit]
  | .halfAdder | .fullAdder => [.bit, .bit]
  | .adder16 | .inc16 | .mux16 | .not16 | .and16 => [.word]
  | .alu => [.word, .bit, .bit]

/-- Where a Bit input comes from: the literal 0 or 1, or a name (R81). -/
inductive BitSrc where
  | lit (b : Bit)
  | net (n : Name)
deriving DecidableEq, Repr

/-- Where a Word16 input comes from: a literal 0xHHHH, or a name (R81). -/
inductive WordSrc where
  | lit (w : Word16)
  | net (n : Name)
deriving DecidableEq, Repr

/-- A source as a netlist line writes it, its port not yet looked at (R81). -/
inductive Src where
  | bit (b : Bit)
  | word (w : Word16)
  | net (n : Name)
deriving DecidableEq, Repr

def BitSrc.src : BitSrc → Src
  | .lit b => .bit b
  | .net n => .net n

def WordSrc.src : WordSrc → Src
  | .lit w => .word w
  | .net n => .net n

/-- The names an alu line gives its outputs (R81): `out, zr, ng = …`, or `out = …` when zr and ng are unused
(log entry 17). -/
structure AluDest where
  out   : Name
  flags : Option (Name × Name)
deriving DecidableEq, Repr

def AluDest.names (d : AluDest) : List Name :=
  match d.flags with
  | none => [d.out]
  | some (z, n) => [d.out, z, n]

/-- One evaluation of one unit. The output names come first, in the unit's output order (R70), then the sources of
its input ports in port order. -/
inductive Instr where
  | and (out : Name) (a b : BitSrc)
  | or (out : Name) (a b : BitSrc)
  | not (out : Name) (a : BitSrc)
  | nand (out : Name) (a b : BitSrc)
  | xor (out : Name) (a b : BitSrc)
  | halfAdder (sum carry : Name) (a b : BitSrc)
  | fullAdder (sum carryOut : Name) (a b c : BitSrc)
  | adder16 (C : Name) (A B : WordSrc)
  | inc16 (out : Name) (A : WordSrc)
  | mux16 (out : Name) (A B : WordSrc) (sel : BitSrc)
  | not16 (out : Name) (A : WordSrc)
  | and16 (out : Name) (A B : WordSrc)
  | alu (d : AluDest) (x y : WordSrc) (zx nx zy ny f no : BitSrc)
  | alu000000 (d : AluDest) (x y : WordSrc)
  | alu000001 (d : AluDest) (x y : WordSrc)
  | alu000010 (d : AluDest) (x y : WordSrc)
  | alu000011 (d : AluDest) (x y : WordSrc)
  | alu000100 (d : AluDest) (x y : WordSrc)
  | alu000101 (d : AluDest) (x y : WordSrc)
  | alu000110 (d : AluDest) (x y : WordSrc)
  | alu000111 (d : AluDest) (x y : WordSrc)
  | alu001000 (d : AluDest) (x y : WordSrc)
  | alu001001 (d : AluDest) (x y : WordSrc)
  | alu001010 (d : AluDest) (x y : WordSrc)
  | alu001011 (d : AluDest) (x y : WordSrc)
  | alu001100 (d : AluDest) (x y : WordSrc)
  | alu001101 (d : AluDest) (x y : WordSrc)
  | alu001110 (d : AluDest) (x y : WordSrc)
  | alu001111 (d : AluDest) (x y : WordSrc)
  | alu010000 (d : AluDest) (x y : WordSrc)
  | alu010001 (d : AluDest) (x y : WordSrc)
  | alu010010 (d : AluDest) (x y : WordSrc)
  | alu010011 (d : AluDest) (x y : WordSrc)
  | alu010100 (d : AluDest) (x y : WordSrc)
  | alu010101 (d : AluDest) (x y : WordSrc)
  | alu010110 (d : AluDest) (x y : WordSrc)
  | alu010111 (d : AluDest) (x y : WordSrc)
  | alu011000 (d : AluDest) (x y : WordSrc)
  | alu011001 (d : AluDest) (x y : WordSrc)
  | alu011010 (d : AluDest) (x y : WordSrc)
  | alu011011 (d : AluDest) (x y : WordSrc)
  | alu011100 (d : AluDest) (x y : WordSrc)
  | alu011101 (d : AluDest) (x y : WordSrc)
  | alu011110 (d : AluDest) (x y : WordSrc)
  | alu011111 (d : AluDest) (x y : WordSrc)
  | alu100000 (d : AluDest) (x y : WordSrc)
  | alu100001 (d : AluDest) (x y : WordSrc)
  | alu100010 (d : AluDest) (x y : WordSrc)
  | alu100011 (d : AluDest) (x y : WordSrc)
  | alu100100 (d : AluDest) (x y : WordSrc)
  | alu100101 (d : AluDest) (x y : WordSrc)
  | alu100110 (d : AluDest) (x y : WordSrc)
  | alu100111 (d : AluDest) (x y : WordSrc)
  | alu101000 (d : AluDest) (x y : WordSrc)
  | alu101001 (d : AluDest) (x y : WordSrc)
  | alu101010 (d : AluDest) (x y : WordSrc)
  | alu101011 (d : AluDest) (x y : WordSrc)
  | alu101100 (d : AluDest) (x y : WordSrc)
  | alu101101 (d : AluDest) (x y : WordSrc)
  | alu101110 (d : AluDest) (x y : WordSrc)
  | alu101111 (d : AluDest) (x y : WordSrc)
  | alu110000 (d : AluDest) (x y : WordSrc)
  | alu110001 (d : AluDest) (x y : WordSrc)
  | alu110010 (d : AluDest) (x y : WordSrc)
  | alu110011 (d : AluDest) (x y : WordSrc)
  | alu110100 (d : AluDest) (x y : WordSrc)
  | alu110101 (d : AluDest) (x y : WordSrc)
  | alu110110 (d : AluDest) (x y : WordSrc)
  | alu110111 (d : AluDest) (x y : WordSrc)
  | alu111000 (d : AluDest) (x y : WordSrc)
  | alu111001 (d : AluDest) (x y : WordSrc)
  | alu111010 (d : AluDest) (x y : WordSrc)
  | alu111011 (d : AluDest) (x y : WordSrc)
  | alu111100 (d : AluDest) (x y : WordSrc)
  | alu111101 (d : AluDest) (x y : WordSrc)
  | alu111110 (d : AluDest) (x y : WordSrc)
  | alu111111 (d : AluDest) (x y : WordSrc)
deriving DecidableEq, Repr

/-- One input port of an evaluation with what it is wired to. -/
structure PortUse where
  port  : PortName
  width : Width
  src   : Src
deriving DecidableEq, Repr

def bitPort (p : PortName) (s : BitSrc) : PortUse := ⟨p, .bit, s.src⟩

def wordPort (p : PortName) (s : WordSrc) : PortUse := ⟨p, .word, s.src⟩

/-- The input ports of an alu evaluation, in the order of R70. -/
def aluPorts (x y : WordSrc) (zx nx zy ny f no : BitSrc) : List PortUse :=
  [wordPort .x x, wordPort .y y, bitPort .zx zx, bitPort .nx nx, bitPort .zy zy, bitPort .ny ny, bitPort .f f,
    bitPort .no no]

/-- What an instruction is as a composition: the unit it evaluates, that unit's input ports with their sources, and
the names of its outputs. -/
structure Parts where
  cell  : Cell
  ports : List PortUse
  dests : List Name
deriving DecidableEq, Repr

/-- `ALU.<ctl>` is the unit alu with its six control ports tied to the code (R72, R81). -/
def codeParts (d : AluDest) (x y : WordSrc) (zx nx zy ny f no : Bit) : Parts :=
  ⟨.alu, aluPorts x y (.lit zx) (.lit nx) (.lit zy) (.lit ny) (.lit f) (.lit no), d.names⟩

def Instr.parts : Instr → Parts
  | .and o a b => ⟨.and, [bitPort .a a, bitPort .b b], [o]⟩
  | .or o a b => ⟨.or, [bitPort .a a, bitPort .b b], [o]⟩
  | .not o a => ⟨.not, [bitPort .a a], [o]⟩
  | .nand o a b => ⟨.nand, [bitPort .a a, bitPort .b b], [o]⟩
  | .xor o a b => ⟨.xor, [bitPort .a a, bitPort .b b], [o]⟩
  | .halfAdder s k a b => ⟨.halfAdder, [bitPort .a a, bitPort .b b], [s, k]⟩
  | .fullAdder s k a b c => ⟨.fullAdder, [bitPort .a a, bitPort .b b, bitPort .c c], [s, k]⟩
  | .adder16 o A B => ⟨.adder16, [wordPort .A A, wordPort .B B], [o]⟩
  | .inc16 o A => ⟨.inc16, [wordPort .A A], [o]⟩
  | .mux16 o A B sel => ⟨.mux16, [wordPort .A A, wordPort .B B, bitPort .sel sel], [o]⟩
  | .not16 o A => ⟨.not16, [wordPort .A A], [o]⟩
  | .and16 o A B => ⟨.and16, [wordPort .A A, wordPort .B B], [o]⟩
  | .alu d x y zx nx zy ny f no => ⟨.alu, aluPorts x y zx nx zy ny f no, d.names⟩
  | .alu000000 d x y => codeParts d x y false false false false false false
  | .alu000001 d x y => codeParts d x y false false false false false true
  | .alu000010 d x y => codeParts d x y false false false false true false
  | .alu000011 d x y => codeParts d x y false false false false true true
  | .alu000100 d x y => codeParts d x y false false false true false false
  | .alu000101 d x y => codeParts d x y false false false true false true
  | .alu000110 d x y => codeParts d x y false false false true true false
  | .alu000111 d x y => codeParts d x y false false false true true true
  | .alu001000 d x y => codeParts d x y false false true false false false
  | .alu001001 d x y => codeParts d x y false false true false false true
  | .alu001010 d x y => codeParts d x y false false true false true false
  | .alu001011 d x y => codeParts d x y false false true false true true
  | .alu001100 d x y => codeParts d x y false false true true false false
  | .alu001101 d x y => codeParts d x y false false true true false true
  | .alu001110 d x y => codeParts d x y false false true true true false
  | .alu001111 d x y => codeParts d x y false false true true true true
  | .alu010000 d x y => codeParts d x y false true false false false false
  | .alu010001 d x y => codeParts d x y false true false false false true
  | .alu010010 d x y => codeParts d x y false true false false true false
  | .alu010011 d x y => codeParts d x y false true false false true true
  | .alu010100 d x y => codeParts d x y false true false true false false
  | .alu010101 d x y => codeParts d x y false true false true false true
  | .alu010110 d x y => codeParts d x y false true false true true false
  | .alu010111 d x y => codeParts d x y false true false true true true
  | .alu011000 d x y => codeParts d x y false true true false false false
  | .alu011001 d x y => codeParts d x y false true true false false true
  | .alu011010 d x y => codeParts d x y false true true false true false
  | .alu011011 d x y => codeParts d x y false true true false true true
  | .alu011100 d x y => codeParts d x y false true true true false false
  | .alu011101 d x y => codeParts d x y false true true true false true
  | .alu011110 d x y => codeParts d x y false true true true true false
  | .alu011111 d x y => codeParts d x y false true true true true true
  | .alu100000 d x y => codeParts d x y true false false false false false
  | .alu100001 d x y => codeParts d x y true false false false false true
  | .alu100010 d x y => codeParts d x y true false false false true false
  | .alu100011 d x y => codeParts d x y true false false false true true
  | .alu100100 d x y => codeParts d x y true false false true false false
  | .alu100101 d x y => codeParts d x y true false false true false true
  | .alu100110 d x y => codeParts d x y true false false true true false
  | .alu100111 d x y => codeParts d x y true false false true true true
  | .alu101000 d x y => codeParts d x y true false true false false false
  | .alu101001 d x y => codeParts d x y true false true false false true
  | .alu101010 d x y => codeParts d x y true false true false true false
  | .alu101011 d x y => codeParts d x y true false true false true true
  | .alu101100 d x y => codeParts d x y true false true true false false
  | .alu101101 d x y => codeParts d x y true false true true false true
  | .alu101110 d x y => codeParts d x y true false true true true false
  | .alu101111 d x y => codeParts d x y true false true true true true
  | .alu110000 d x y => codeParts d x y true true false false false false
  | .alu110001 d x y => codeParts d x y true true false false false true
  | .alu110010 d x y => codeParts d x y true true false false true false
  | .alu110011 d x y => codeParts d x y true true false false true true
  | .alu110100 d x y => codeParts d x y true true false true false false
  | .alu110101 d x y => codeParts d x y true true false true false true
  | .alu110110 d x y => codeParts d x y true true false true true false
  | .alu110111 d x y => codeParts d x y true true false true true true
  | .alu111000 d x y => codeParts d x y true true true false false false
  | .alu111001 d x y => codeParts d x y true true true false false true
  | .alu111010 d x y => codeParts d x y true true true false true false
  | .alu111011 d x y => codeParts d x y true true true false true true
  | .alu111100 d x y => codeParts d x y true true true true false false
  | .alu111101 d x y => codeParts d x y true true true true false true
  | .alu111110 d x y => codeParts d x y true true true true true false
  | .alu111111 d x y => codeParts d x y true true true true true true

/-- The unit an instruction evaluates. -/
def Instr.cell (i : Instr) : Cell := i.parts.cell

/-- Its input ports with their sources. -/
def Instr.ports (i : Instr) : List PortUse := i.parts.ports

/-- The names it defines, in output order. -/
def Instr.dests (i : Instr) : List Name := i.parts.dests

/-- The names its input ports are wired to. -/
def Instr.uses (i : Instr) : List Name :=
  i.ports.filterMap fun p => match p.src with
    | .net n => some n
    | .bit _ => none
    | .word _ => none

/-- The pseudo-instructions of R82. -/
inductive Pseudo where
  | zero | one | mone | passx | passy | notx | noty | negx | negy | incx | incy | decx | decy
  | add | sub | rsub | and | or
deriving DecidableEq, Repr

/-- What a netlist line writes to select its unit (R81): a cell by its unit name; `ALU.<ctl>` by its control code,
here the byte that holds the six bits of R72; or a pseudo-instruction of R82. `.cell .alu` is the unit alu with its
six control ports wired as sources (log entry 23). -/
inductive Selector where
  | cell (u : Cell)
  | code (ctl : Byte)
  | pseudo (p : Pseudo)
deriving DecidableEq, Repr

/-- One line of a netlist, `outs = sel(ins)` (R81): the encoded form of an instruction (log entry 5). -/
structure Line where
  sel  : Selector
  outs : List Name
  ins  : List Src
deriving DecidableEq, Repr

/-- Which input a DomainError names: a port, and for an element of a Word16 its source index, as in `A⟨3⟩` (R301). -/
structure PortRef where
  port : PortName
  elem : Option (Fin 16)
deriving DecidableEq, Repr

/-- The info record `(unit, port, value)` of a DomainError (R301, D4). -/
structure DomainInfo where
  unit  : Cell
  port  : PortRef
  value : Byte
deriving DecidableEq, Repr

end Sys2Proof
end

