-- ==== Sys2Proof/Config.lean ====
section
/-! DEFINITION. The named parameters that CORE leaves open (R9): constants without a value that Lean can see. RAW_BITS is
a field of State (log entry 3); WIDTH is fixed at 16 (R7). -/

namespace Sys2Proof.Config

/-- ErrorChoice (R306, D3): which of several illegal inputs a DomainError names. A FREE VALUE, under no law: it gives a
number for the n-th evaluation and its illegal inputs, and the model takes that number modulo how many there are
(log entry 4). -/
opaque errorChoice : Nat → List DomainInfo → Nat

/-- MUX_DEPTH, the gate depth M of mux16 (D12, R338): OPEN, used by the timing figures alone. -/
opaque muxDepth : Nat

/-- ZR_DEPTH, the gate depth Z of the zr zero detector (D12, R338): OPEN, used by the timing figures alone. -/
opaque zrDepth : Nat

/-- SETTLE, the time from the last input change until the outputs are settled (D8, R9): OPEN, used by no rule. -/
opaque settle : Nat

/-- The two ways a test harness could serialise a Word16 into bytes (D10). -/
inductive ByteOrder where
  | lowFirst | highFirst
deriving DecidableEq, Repr, Inhabited

/-- HARNESS_BYTE_ORDER (D10, R51): OPEN, used by no rule of CORE. -/
opaque harnessByteOrder : ByteOrder

end Sys2Proof.Config
end

