-- ==== Sys2Proof/Machine/Bits.lean ====
section
/-! DEFINITION. Bit-field helpers: a word built position by position, and the legality of raw bytes. -/

namespace Sys2Proof.Machine

/-- The word of n Bits whose bit position k is `f k`. -/
def mapBits (f : Nat → Bit) : (n : Nat) → BitVec n
  | 0 => 0#0
  | n + 1 => BitVec.cons (f n) (mapBits f n)

/-- A byte is a legal Bit if it is 0 or 1 (R10, R101). -/
def byteIsBit (v : Byte) : Bool := v == 0#8 || v == 1#8

/-- The Bit of a legal byte. -/
def byteBit (v : Byte) : Bit := v == 1#8

/-- The byte at bit position k: `W[k] = W⟨15 − k⟩` (R11, D5). -/
def rawAt (v : RawWord) (k : Nat) : Byte := (v.toList[15 - k]?).getD 0#8

/-- The Word16 of sixteen legal bytes. -/
def rawToWord (v : RawWord) : Word16 := mapBits (fun k => byteBit (rawAt v k)) 16

/-- The elements outside {0,1}, each with its source index. -/
def illegalElems (v : RawWord) : List (Fin 16 × Byte) :=
  (List.finRange 16).filterMap fun i => if byteIsBit v[i] then none else some (i, v[i])

end Sys2Proof.Machine
end

