-- ==== Sys2Proof/WellFormed.lean ====
section
/-! DEFINITION. When an instruction, and a netlist of them, is one that R81 admits: names are single-assignment, each
defined before every line that uses it, and every port is wired to a value of its own width (R70). -/

namespace Sys2Proof

/-- No two outputs of one line have the same name ("Names are single-assignment", R81). -/
def Instr.destsDistinct (i : Instr) : Bool := decide i.dests.Nodup

/-- No output of a unit drives an input of the same unit (R38, R335). -/
def Instr.noFeedback (i : Instr) : Bool := i.uses.all fun n => !i.dests.contains n

def Instr.wellFormed (i : Instr) : Bool := i.destsDistinct && i.noFeedback

/-- The names defined so far, each with the width of its value. -/
abbrev NetTypes := List (Name × Width)

def NetTypes.get : NetTypes → Name → Option Width
  | [], _ => none
  | (k, w) :: g, n => if k = n then some w else NetTypes.get g n

/-- The width a source carries. -/
def Src.width? (g : NetTypes) : Src → Option Width
  | .bit _ => some .bit
  | .word _ => some .word
  | .net n => NetTypes.get g n

/-- The names an instruction defines, with their widths (R70). -/
def Instr.defs (i : Instr) : NetTypes := i.dests.zip i.cell.outputs

/-- Every port of the line is wired to a literal or to a name defined before it, of the port's width. -/
def Instr.portsDefined (g : NetTypes) (i : Instr) : Bool :=
  i.ports.all fun p => p.src.width? g == some p.width

/-- No name of the line is defined already. -/
def Instr.destsNew (g : NetTypes) (i : Instr) : Bool := i.dests.all fun n => (NetTypes.get g n).isNone

/-- A netlist that R81 and R335 admit, over names defined before it: so it is acyclic. -/
def Netlist.wellFormed : NetTypes → List Instr → Bool
  | _, [] => true
  | g, i :: is => i.wellFormed && i.portsDefined g && i.destsNew g && Netlist.wellFormed (i.defs ++ g) is

end Sys2Proof
end

