-- ==== Sys2Proof/Decode.lean ====
section
/-! DEFINITION. The decoder, total on every netlist line and rejecting by name, and after it the encoder, both from the
tables of spec/30_encoding.md: the ports of R70, the control code of R72 and the pseudo-instructions of R82. -/

namespace Sys2Proof

/-- Why a line is no line of R81. -/
inductive DecodeError where
  /-- the line has not one source for each input port and one name for each output port of its unit (R70, R318) -/
  | portCount
  /-- a literal of one width stands at a port of the other (R70) -/
  | portWidth
  /-- the control byte holds more than the six bits of a control code (R72, R79) -/
  | controlCode
deriving DecidableEq, Repr

/-- The names the sources of a line are wired to. -/
def Line.uses (l : Line) : List Name :=
  l.ins.filterMap fun t => match t with
    | .net n => some n
    | .bit _ => none
    | .word _ => none

def Src.asBit : Src → Except DecodeError BitSrc
  | .bit b => .ok (.lit b)
  | .net n => .ok (.net n)
  | .word _ => .error .portWidth

def Src.asWord : Src → Except DecodeError WordSrc
  | .word w => .ok (.lit w)
  | .net n => .ok (.net n)
  | .bit _ => .error .portWidth

/-- The outputs of an alu line: `out, zr, ng = …` or `out = …` (R81). -/
def asAluDest : List Name → Except DecodeError AluDest
  | [o] => .ok ⟨o, none⟩
  | [o, z, n] => .ok ⟨o, some (z, n)⟩
  | _ => .error .portCount

def decodeBit1 (mk : Name → BitSrc → Instr) (l : Line) : Except DecodeError Instr :=
  match l.outs, l.ins with
  | [o], [a] => do return mk o (← a.asBit)
  | _, _ => .error .portCount

def decodeBit2 (mk : Name → BitSrc → BitSrc → Instr) (l : Line) : Except DecodeError Instr :=
  match l.outs, l.ins with
  | [o], [a, b] => do return mk o (← a.asBit) (← b.asBit)
  | _, _ => .error .portCount

def decodeHalfAdder (l : Line) : Except DecodeError Instr :=
  match l.outs, l.ins with
  | [s, k], [a, b] => do return .halfAdder s k (← a.asBit) (← b.asBit)
  | _, _ => .error .portCount

def decodeFullAdder (l : Line) : Except DecodeError Instr :=
  match l.outs, l.ins with
  | [s, k], [a, b, c] => do return .fullAdder s k (← a.asBit) (← b.asBit) (← c.asBit)
  | _, _ => .error .portCount

def decodeWord1 (mk : Name → WordSrc → Instr) (l : Line) : Except DecodeError Instr :=
  match l.outs, l.ins with
  | [o], [A] => do return mk o (← A.asWord)
  | _, _ => .error .portCount

def decodeWord2 (mk : Name → WordSrc → WordSrc → Instr) (l : Line) : Except DecodeError Instr :=
  match l.outs, l.ins with
  | [o], [A, B] => do return mk o (← A.asWord) (← B.asWord)
  | _, _ => .error .portCount

def decodeMux16 (l : Line) : Except DecodeError Instr :=
  match l.outs, l.ins with
  | [o], [A, B, sel] => do return .mux16 o (← A.asWord) (← B.asWord) (← sel.asBit)
  | _, _ => .error .portCount

def decodeAlu (l : Line) : Except DecodeError Instr :=
  match l.ins with
  | [x, y, zx, nx, zy, ny, f, no] => do
    return .alu (← asAluDest l.outs) (← x.asWord) (← y.asWord) (← zx.asBit) (← nx.asBit) (← zy.asBit) (← ny.asBit)
      (← f.asBit) (← no.asBit)
  | _ => .error .portCount

/-- The row of the opcode table that six control bits select, in the order zx nx zy ny f no (R72, R76). -/
def codeInstr (d : AluDest) (x y : WordSrc) (zx nx zy ny f no : Bit) : Instr :=
  match zx, nx, zy, ny, f, no with
  | false, false, false, false, false, false => .alu000000 d x y
  | false, false, false, false, false, true => .alu000001 d x y
  | false, false, false, false, true, false => .alu000010 d x y
  | false, false, false, false, true, true => .alu000011 d x y
  | false, false, false, true, false, false => .alu000100 d x y
  | false, false, false, true, false, true => .alu000101 d x y
  | false, false, false, true, true, false => .alu000110 d x y
  | false, false, false, true, true, true => .alu000111 d x y
  | false, false, true, false, false, false => .alu001000 d x y
  | false, false, true, false, false, true => .alu001001 d x y
  | false, false, true, false, true, false => .alu001010 d x y
  | false, false, true, false, true, true => .alu001011 d x y
  | false, false, true, true, false, false => .alu001100 d x y
  | false, false, true, true, false, true => .alu001101 d x y
  | false, false, true, true, true, false => .alu001110 d x y
  | false, false, true, true, true, true => .alu001111 d x y
  | false, true, false, false, false, false => .alu010000 d x y
  | false, true, false, false, false, true => .alu010001 d x y
  | false, true, false, false, true, false => .alu010010 d x y
  | false, true, false, false, true, true => .alu010011 d x y
  | false, true, false, true, false, false => .alu010100 d x y
  | false, true, false, true, false, true => .alu010101 d x y
  | false, true, false, true, true, false => .alu010110 d x y
  | false, true, false, true, true, true => .alu010111 d x y
  | false, true, true, false, false, false => .alu011000 d x y
  | false, true, true, false, false, true => .alu011001 d x y
  | false, true, true, false, true, false => .alu011010 d x y
  | false, true, true, false, true, true => .alu011011 d x y
  | false, true, true, true, false, false => .alu011100 d x y
  | false, true, true, true, false, true => .alu011101 d x y
  | false, true, true, true, true, false => .alu011110 d x y
  | false, true, true, true, true, true => .alu011111 d x y
  | true, false, false, false, false, false => .alu100000 d x y
  | true, false, false, false, false, true => .alu100001 d x y
  | true, false, false, false, true, false => .alu100010 d x y
  | true, false, false, false, true, true => .alu100011 d x y
  | true, false, false, true, false, false => .alu100100 d x y
  | true, false, false, true, false, true => .alu100101 d x y
  | true, false, false, true, true, false => .alu100110 d x y
  | true, false, false, true, true, true => .alu100111 d x y
  | true, false, true, false, false, false => .alu101000 d x y
  | true, false, true, false, false, true => .alu101001 d x y
  | true, false, true, false, true, false => .alu101010 d x y
  | true, false, true, false, true, true => .alu101011 d x y
  | true, false, true, true, false, false => .alu101100 d x y
  | true, false, true, true, false, true => .alu101101 d x y
  | true, false, true, true, true, false => .alu101110 d x y
  | true, false, true, true, true, true => .alu101111 d x y
  | true, true, false, false, false, false => .alu110000 d x y
  | true, true, false, false, false, true => .alu110001 d x y
  | true, true, false, false, true, false => .alu110010 d x y
  | true, true, false, false, true, true => .alu110011 d x y
  | true, true, false, true, false, false => .alu110100 d x y
  | true, true, false, true, false, true => .alu110101 d x y
  | true, true, false, true, true, false => .alu110110 d x y
  | true, true, false, true, true, true => .alu110111 d x y
  | true, true, true, false, false, false => .alu111000 d x y
  | true, true, true, false, false, true => .alu111001 d x y
  | true, true, true, false, true, false => .alu111010 d x y
  | true, true, true, false, true, true => .alu111011 d x y
  | true, true, true, true, false, false => .alu111100 d x y
  | true, true, true, true, false, true => .alu111101 d x y
  | true, true, true, true, true, false => .alu111110 d x y
  | true, true, true, true, true, true => .alu111111 d x y

/-- `ctl[5] = zx`, `ctl[4] = nx`, `ctl[3] = zy`, `ctl[2] = ny`, `ctl[1] = f`, `ctl[0] = no` (R72). Total: every 6-bit
value is one of the 64 codes (R76, R79). -/
def Instr.ofCode (ctl : BitVec 6) (d : AluDest) (x y : WordSrc) : Instr :=
  codeInstr d x y (ctl.getLsbD 5) (ctl.getLsbD 4) (ctl.getLsbD 3) (ctl.getLsbD 2) (ctl.getLsbD 1) (ctl.getLsbD 0)

/-- A line of a control code: the two word operands, the code selecting the operation. -/
def decodeCode (ctl : BitVec 6) (l : Line) : Except DecodeError Instr :=
  match l.ins with
  | [x, y] => do return Instr.ofCode ctl (← asAluDest l.outs) (← x.asWord) (← y.asWord)
  | _ => .error .portCount

/-- The control code of each pseudo-instruction (the table of R82). -/
def Pseudo.code : Pseudo → BitVec 6
  | .zero => 0b101010#6
  | .one => 0b111111#6
  | .mone => 0b111010#6
  | .passx => 0b001100#6
  | .passy => 0b110000#6
  | .notx => 0b001101#6
  | .noty => 0b110001#6
  | .negx => 0b001111#6
  | .negy => 0b110011#6
  | .incx => 0b011111#6
  | .incy => 0b110111#6
  | .decx => 0b001110#6
  | .decy => 0b110010#6
  | .add => 0b000010#6
  | .sub => 0b010011#6
  | .rsub => 0b000111#6
  | .and => 0b000000#6
  | .or => 0b010101#6

/-- The decoder. -/
def decode (l : Line) : Except DecodeError Instr :=
  match l.sel with
  | .cell .and => decodeBit2 .and l
  | .cell .or => decodeBit2 .or l
  | .cell .not => decodeBit1 .not l
  | .cell .nand => decodeBit2 .nand l
  | .cell .xor => decodeBit2 .xor l
  | .cell .halfAdder => decodeHalfAdder l
  | .cell .fullAdder => decodeFullAdder l
  | .cell .adder16 => decodeWord2 .adder16 l
  | .cell .inc16 => decodeWord1 .inc16 l
  | .cell .mux16 => decodeMux16 l
  | .cell .not16 => decodeWord1 .not16 l
  | .cell .and16 => decodeWord2 .and16 l
  | .cell .alu => decodeAlu l
  | .code ctl => if ctl.toNat < 64 then decodeCode (ctl.setWidth 6) l else .error .controlCode
  | .pseudo p => decodeCode p.code l

/-- The line of a control code: its byte, bits 5..0 the six control bits and bits 7..6 zero (R72). -/
def codeLine (ctl : Byte) (d : AluDest) (x y : WordSrc) : Line := ⟨.code ctl, d.names, [x.src, y.src]⟩

/-- The encoder: the netlist line of an instruction (R70, R72, R81). -/
def encode : Instr → Line
  | .and o a b => ⟨.cell .and, [o], [a.src, b.src]⟩
  | .or o a b => ⟨.cell .or, [o], [a.src, b.src]⟩
  | .not o a => ⟨.cell .not, [o], [a.src]⟩
  | .nand o a b => ⟨.cell .nand, [o], [a.src, b.src]⟩
  | .xor o a b => ⟨.cell .xor, [o], [a.src, b.src]⟩
  | .halfAdder s k a b => ⟨.cell .halfAdder, [s, k], [a.src, b.src]⟩
  | .fullAdder s k a b c => ⟨.cell .fullAdder, [s, k], [a.src, b.src, c.src]⟩
  | .adder16 o A B => ⟨.cell .adder16, [o], [A.src, B.src]⟩
  | .inc16 o A => ⟨.cell .inc16, [o], [A.src]⟩
  | .mux16 o A B sel => ⟨.cell .mux16, [o], [A.src, B.src, sel.src]⟩
  | .not16 o A => ⟨.cell .not16, [o], [A.src]⟩
  | .and16 o A B => ⟨.cell .and16, [o], [A.src, B.src]⟩
  | .alu d x y zx nx zy ny f no =>
    ⟨.cell .alu, d.names, [x.src, y.src, zx.src, nx.src, zy.src, ny.src, f.src, no.src]⟩
  | .alu000000 d x y => codeLine 0b00000000#8 d x y
  | .alu000001 d x y => codeLine 0b00000001#8 d x y
  | .alu000010 d x y => codeLine 0b00000010#8 d x y
  | .alu000011 d x y => codeLine 0b00000011#8 d x y
  | .alu000100 d x y => codeLine 0b00000100#8 d x y
  | .alu000101 d x y => codeLine 0b00000101#8 d x y
  | .alu000110 d x y => codeLine 0b00000110#8 d x y
  | .alu000111 d x y => codeLine 0b00000111#8 d x y
  | .alu001000 d x y => codeLine 0b00001000#8 d x y
  | .alu001001 d x y => codeLine 0b00001001#8 d x y
  | .alu001010 d x y => codeLine 0b00001010#8 d x y
  | .alu001011 d x y => codeLine 0b00001011#8 d x y
  | .alu001100 d x y => codeLine 0b00001100#8 d x y
  | .alu001101 d x y => codeLine 0b00001101#8 d x y
  | .alu001110 d x y => codeLine 0b00001110#8 d x y
  | .alu001111 d x y => codeLine 0b00001111#8 d x y
  | .alu010000 d x y => codeLine 0b00010000#8 d x y
  | .alu010001 d x y => codeLine 0b00010001#8 d x y
  | .alu010010 d x y => codeLine 0b00010010#8 d x y
  | .alu010011 d x y => codeLine 0b00010011#8 d x y
  | .alu010100 d x y => codeLine 0b00010100#8 d x y
  | .alu010101 d x y => codeLine 0b00010101#8 d x y
  | .alu010110 d x y => codeLine 0b00010110#8 d x y
  | .alu010111 d x y => codeLine 0b00010111#8 d x y
  | .alu011000 d x y => codeLine 0b00011000#8 d x y
  | .alu011001 d x y => codeLine 0b00011001#8 d x y
  | .alu011010 d x y => codeLine 0b00011010#8 d x y
  | .alu011011 d x y => codeLine 0b00011011#8 d x y
  | .alu011100 d x y => codeLine 0b00011100#8 d x y
  | .alu011101 d x y => codeLine 0b00011101#8 d x y
  | .alu011110 d x y => codeLine 0b00011110#8 d x y
  | .alu011111 d x y => codeLine 0b00011111#8 d x y
  | .alu100000 d x y => codeLine 0b00100000#8 d x y
  | .alu100001 d x y => codeLine 0b00100001#8 d x y
  | .alu100010 d x y => codeLine 0b00100010#8 d x y
  | .alu100011 d x y => codeLine 0b00100011#8 d x y
  | .alu100100 d x y => codeLine 0b00100100#8 d x y
  | .alu100101 d x y => codeLine 0b00100101#8 d x y
  | .alu100110 d x y => codeLine 0b00100110#8 d x y
  | .alu100111 d x y => codeLine 0b00100111#8 d x y
  | .alu101000 d x y => codeLine 0b00101000#8 d x y
  | .alu101001 d x y => codeLine 0b00101001#8 d x y
  | .alu101010 d x y => codeLine 0b00101010#8 d x y
  | .alu101011 d x y => codeLine 0b00101011#8 d x y
  | .alu101100 d x y => codeLine 0b00101100#8 d x y
  | .alu101101 d x y => codeLine 0b00101101#8 d x y
  | .alu101110 d x y => codeLine 0b00101110#8 d x y
  | .alu101111 d x y => codeLine 0b00101111#8 d x y
  | .alu110000 d x y => codeLine 0b00110000#8 d x y
  | .alu110001 d x y => codeLine 0b00110001#8 d x y
  | .alu110010 d x y => codeLine 0b00110010#8 d x y
  | .alu110011 d x y => codeLine 0b00110011#8 d x y
  | .alu110100 d x y => codeLine 0b00110100#8 d x y
  | .alu110101 d x y => codeLine 0b00110101#8 d x y
  | .alu110110 d x y => codeLine 0b00110110#8 d x y
  | .alu110111 d x y => codeLine 0b00110111#8 d x y
  | .alu111000 d x y => codeLine 0b00111000#8 d x y
  | .alu111001 d x y => codeLine 0b00111001#8 d x y
  | .alu111010 d x y => codeLine 0b00111010#8 d x y
  | .alu111011 d x y => codeLine 0b00111011#8 d x y
  | .alu111100 d x y => codeLine 0b00111100#8 d x y
  | .alu111101 d x y => codeLine 0b00111101#8 d x y
  | .alu111110 d x y => codeLine 0b00111110#8 d x y
  | .alu111111 d x y => codeLine 0b00111111#8 d x y

/-- The line a control code of the opcode table stands for when its row gives no bits to the operands: x and y the
literal 0x0000 and the outputs named 0, 1 and 2 (log entry 6). Bits above the six of the code must be zero. -/
def tableLine (nbits w : Nat) : Line :=
  ⟨.code (if nbits ≤ 8 ∧ w < 256 then BitVec.ofNat 8 w else 255#8), [0, 1, 2], [.word 0#16, .word 0#16]⟩

/-- The instruction the decoder reads from a word of spec/opcode_table.json. -/
def decodeTableWord (nbits w : Nat) : Option Instr :=
  match decode (tableLine nbits w) with
  | .ok i => some i
  | .error _ => none

/-! The concrete text of a line (R81), for a reader: no step reads it. -/

def hexDigit (n : Nat) : String :=
  ((["0", "1", "2", "3", "4", "5", "6", "7", "8", "9", "A", "B", "C", "D", "E", "F"] : List String)[n]?).getD "?"

def hex4 (w : Word16) : String :=
  "0x" ++ hexDigit (w.toNat / 4096) ++ hexDigit (w.toNat / 256 % 16) ++ hexDigit (w.toNat / 16 % 16) ++
    hexDigit (w.toNat % 16)

def bitText (b : Bit) : String := if b then "1" else "0"

def Src.text : Src → String
  | .bit b => bitText b
  | .word w => hex4 w
  | .net n => "n" ++ toString n

def Cell.text : Cell → String
  | .and => "AND" | .or => "OR" | .not => "NOT" | .nand => "NAND" | .xor => "XOR"
  | .halfAdder => "HALF_ADDER" | .fullAdder => "FULL_ADDER" | .adder16 => "ADDER16" | .inc16 => "INC16"
  | .mux16 => "MUX16" | .not16 => "NOT16" | .and16 => "AND16" | .alu => "ALU"

/-- The alias as R82 names it (log entry 29). -/
def Pseudo.text : Pseudo → String
  | .zero => "ZERO"
  | .one => "ONE"
  | .mone => "MONE"
  | .passx => "PASSX"
  | .passy => "PASSY"
  | .notx => "NOTX"
  | .noty => "NOTY"
  | .negx => "NEGX"
  | .negy => "NEGY"
  | .incx => "INCX"
  | .incy => "INCY"
  | .decx => "DECX"
  | .decy => "DECY"
  | .add => "ADD"
  | .sub => "SUB"
  | .rsub => "RSUB"
  | .and => "AND"
  | .or => "OR"

def Selector.text : Selector → String
  | .cell u => u.text
  | .code ctl => "ALU." ++ bitText (ctl.getLsbD 5) ++ bitText (ctl.getLsbD 4) ++ bitText (ctl.getLsbD 3) ++
      bitText (ctl.getLsbD 2) ++ bitText (ctl.getLsbD 1) ++ bitText (ctl.getLsbD 0)
  | .pseudo p => p.text

def joinText : List String → String
  | [] => ""
  | [t] => t
  | t :: ts => t ++ ", " ++ joinText ts

/-- `outputs = UNIT(inputs)` (R81); a name is written n followed by its number. DESIGN CHOICE (log entry 29): R82 writes an
alias as `SUB x, y` and R81 gives it no line with outputs, and here it has the form of the code it stands for,
`out, zr, ng = SUB(x, y)` or `out = SUB(x, y)`, so the text of the aliases AND and OR is that of the gates, which `Selector`
alone tells apart. -/
def Line.text (l : Line) : String :=
  joinText (l.outs.map fun n => "n" ++ toString n) ++ " = " ++ l.sel.text ++ "(" ++ joinText (l.ins.map Src.text) ++ ")"

end Sys2Proof
end

