-- ==== Sys2Proof/Machine/State.lean ====
section
/-! DEFINITION. The state of a run, its reasons to stop, and the state after reset. CORE itself has no state (R6, R30 to
R37): State holds what a netlist program takes (92_eei_decisions.md D15) and the interface's named parameters (R9). -/

namespace Sys2Proof.Machine

/-- What a name carries. A unit's outputs are always a Bit or a Word16 (R308); a host may drive a name with raw bytes
where RAW_BITS is on (D2). -/
inductive Value where
  | bit (b : Bit)
  | word (w : Word16)
  | rawBit (v : Byte)
  | rawWord (v : RawWord)
deriving DecidableEq, Repr

/-- The driven names with their values, names strictly rising (`Nets.wf`). A name not listed is undriven. -/
abbrev Nets := List (Name × Value)

/-- The state of a run. -/
structure State where
  /-- the value of every driven name: the host's inputs and the outputs so far (D15, R81) -/
  nets    : Nets
  /-- the netlist lines still to evaluate, the next one first (R81, D15) -/
  lines   : List Line
  /-- the netlist lines evaluated so far, in their order: the unit instances that drive the outputs, so that a change of an
  input reaches them (R331, R81, D15) -/
  evaluated : List Line
  /-- RAW_BITS, chosen before the run: whether the raw interface is on (R9, D2) -/
  rawBits : Bool
  /-- the model's own: how many evaluations have been completed, for the draw ErrorChoice (R306, log entry 4) -/
  draws   : Nat
deriving DecidableEq, Repr

/-- The state before the host has driven or loaded anything. CORE has nothing to reset (R330, R37); RAW_BITS is off by
default (R9). The empty netlist and the counter's 0 are the model's (log entries 2 and 4). -/
def State.reset : State := { nets := [], lines := [], evaluated := [], rawBits := false, draws := 0 }

/-- How an evaluation ends without outputs. -/
inductive Fault where
  /-- DomainError, the only exception (R300), with its info (R301). Raised by `evaluate`, the edge check of the unit the
  host evaluates (R305), only while RAW_BITS is on. SAFE: the evaluation has no output and the run stops (log entry 15). -/
  | domainError (info : DomainInfo)
deriving DecidableEq, Repr

/-- The cause code of a DomainError is 1; no other cause code exists (R301, D4). -/
def Fault.causeCode : Fault → Nat
  | .domainError _ => 1

/-- Why the model gives an evaluation no outcome. Every one is SAFE: the model stops. -/
inductive Refusal where
  /-- an instruction of the table without a meaning, by `exec`; no arm answers it -/
  | notModelled (mnemonic : String)
  /-- the last line has been evaluated: the run has ended (D15). By `step` (log entry 8). -/
  | runEnded
  /-- the line is no line of R81. By `step`. -/
  | badLine (e : DecodeError)
  /-- an input of the unit is driven by nothing (R318, D11). By `evaluate`. -/
  | undrivenInput (u : Cell)
  /-- an input is a name that this line or a later one defines: out of order or cyclic (R81, R335, log entry 9). By
  `evaluate`. -/
  | usedBeforeDefined (u : Cell)
  /-- an output name is defined already or twice (R81, log entry 10). By `evaluate`. -/
  | nameDefinedTwice (u : Cell)
  /-- a port is wired to a value of the other width (R70, log entry 11). By `evaluate`. -/
  | widthMismatch (u : Cell)
  /-- a name carries raw bytes while RAW_BITS is off (D1, D2, log entry 12). By `evaluate`. -/
  | rawBitsOff (u : Cell)
deriving DecidableEq, Repr

/-- The outcome of an evaluation. -/
abbrev Outcome := Host.Outcome State Fault Refusal

end Sys2Proof.Machine
end

