-- ==== Sys2Proof/Machine/Nets.lean ====
section
/-! DEFINITION. The map from names to values, in one canonical form: names strictly rising. -/

namespace Sys2Proof.Machine

/-- What a name carries; none where nothing drives it. -/
def Nets.get : Nets → Name → Option Value
  | [], _ => none
  | (k, v) :: m, n => if k = n then some v else Nets.get m n

/-- The map with a name's value set. -/
def Nets.set : Nets → Name → Value → Nets
  | [], n, v => [(n, v)]
  | (k, w) :: m, n, v =>
    if n < k then (n, v) :: (k, w) :: m
    else if n = k then (n, v) :: m
    else (k, w) :: Nets.set m n v

/-- The map with several names set, in order. -/
def Nets.setAll (m : Nets) : List (Name × Value) → Nets
  | [] => m
  | (n, v) :: outs => Nets.setAll (Nets.set m n v) outs

/-- Names strictly rising. -/
def Nets.wf : Nets → Bool
  | [] => true
  | [_] => true
  | (j, _) :: (k, v) :: m => decide (j < k) && Nets.wf ((k, v) :: m)

/-- The map with several names undriven. -/
def Nets.eraseAll (m : Nets) (ns : List Name) : Nets := m.filter fun p => !ns.contains p.1

end Sys2Proof.Machine
end

