-- ==== Sys2Proof/Machine/Operands.lean ====
section
/-! DEFINITION. Every operand form: what a source carries, and what a Bit or a Word16 port reads from it. -/

namespace Sys2Proof.Machine

/-- The width a value has. -/
def Value.width : Value → Width
  | .bit _ => .bit
  | .rawBit _ => .bit
  | .word _ => .word
  | .rawWord _ => .word

/-- Whether a value is one of the raw interface. -/
def Value.isRaw : Value → Bool
  | .bit _ => false
  | .word _ => false
  | .rawBit _ => true
  | .rawWord _ => true

/-- Whether every Bit of a value is in {0,1} (R305). -/
def Value.isLegal : Value → Bool
  | .bit _ => true
  | .word _ => true
  | .rawBit v => byteIsBit v
  | .rawWord v => (illegalElems v).isEmpty

/-- What a source carries: a literal its own value, a name what drives it (R81). -/
def srcValue (s : State) : Src → Option Value
  | .bit b => some (.bit b)
  | .word w => some (.word w)
  | .net n => s.nets.get n

/-- The Bit a source carries. Read by the meanings only after `evaluate` has established that the port is driven, of the
port's width and legal; on any other source its value reaches no output (R307: nothing is substituted; log entry 26). -/
def readBit (s : State) (a : BitSrc) : Bit :=
  match srcValue s a.src with
  | some (.bit b) => b
  | some (.rawBit v) => byteBit v
  | some (.word _) => false
  | some (.rawWord _) => false
  | none => false

/-- The Word16 a source carries; as `readBit`. -/
def readWord (s : State) (A : WordSrc) : Word16 :=
  match srcValue s A.src with
  | some (.word w) => w
  | some (.rawWord v) => rawToWord v
  | some (.bit _) => 0#16
  | some (.rawBit _) => 0#16
  | none => 0#16

/-- The Bits outside {0,1} that a value presents at a port: the port itself, or the elements by source index (R301). -/
def Value.illegalBits (p : PortName) : Value → List (PortRef × Byte)
  | .bit _ => []
  | .word _ => []
  | .rawBit v => if byteIsBit v then [] else [(⟨p, none⟩, v)]
  | .rawWord v => (illegalElems v).map fun e => (⟨p, some e.1⟩, e.2)

/-- The illegal inputs of an evaluation, in port order: every Bit of every input of the unit is checked at its edge, used
or not (R305). -/
def illegalInputs (s : State) (u : Cell) (ports : List PortUse) : List DomainInfo :=
  ports.flatMap fun p =>
    match srcValue s p.src with
    | some v => (v.illegalBits p.port).map fun e => ⟨u, e.1, e.2⟩
    | none => []

end Sys2Proof.Machine
end

