-- ==== Sys2Proof/Machine/Ops.lean ====
section
/-! DEFINITION. The operations every instruction shares: one evaluation of a unit, its edge check, DomainError, and the
fetch of the next netlist line. -/

namespace Sys2Proof.Machine

/-- The draw over the illegal inputs of one evaluation (R306): the only one, or one of several, which one being the free
value `Config.errorChoice`. -/
def drawInfo (draws : Nat) (x : DomainInfo) : List DomainInfo → DomainInfo
  | [] => x
  | y :: ys => ((x :: y :: ys)[Config.errorChoice draws (x :: y :: ys) % (ys.length + 2)]?).getD x

/-- TAKING THE EXCEPTION. A DomainError aborts the whole evaluation: no output gets a value, nothing is saved, no mode
changes and control goes nowhere; the outcome is everything the host sees (R300, R307, R308, R312). There is no return
from it (R313), so no operation stands beside this one. -/
def raiseDomainError (s : State) (x : DomainInfo) (xs : List DomainInfo) : Outcome :=
  .fault (.domainError (drawInfo s.draws x xs))

/-- The names the lines not yet evaluated define. -/
def State.pending (s : State) : List Name := s.lines.flatMap fun l => l.outs

/-- Why an input port does not present a value of its width, if it does not. -/
def portRefusal (s : State) (u : Cell) (dests : List Name) (p : PortUse) : Option Refusal :=
  match srcValue s p.src with
  | none =>
    match p.src with
    | .net n => if dests.contains n || s.pending.contains n then some (.usedBeforeDefined u) else some (.undrivenInput u)
    | .bit _ => some (.undrivenInput u)
    | .word _ => some (.undrivenInput u)
  | some v =>
    if v.width ≠ p.width then some (.widthMismatch u)
    else if v.isRaw && !s.rawBits then some (.rawBitsOff u)
    else none

/-- Whether the names of a line's outputs are new and distinct (R81: single-assignment). -/
def destsFree (s : State) (dests : List Name) : Bool :=
  decide dests.Nodup && dests.all fun n => (s.nets.get n).isNone

/-- Why an evaluation has no outcome, if it has none (R318: neither Ok nor DomainError): the first port at fault, then
the output names (log entry 14). -/
def evaluationRefusal (s : State) (u : Cell) (ports : List PortUse) (dests : List Name) : Option Refusal :=
  match ports.findSome? (portRefusal s u dests) with
  | some r => some r
  | none => if destsFree s dests then none else some (.nameDefinedTwice u)

/-- The state after an evaluation: its output names carry its outputs, and nothing else changed (R38, R53); one draw is
used up (log entry 4). -/
def State.commit (s : State) (outs : List (Name × Value)) : State :=
  { s with nets := s.nets.setAll outs, draws := s.draws + 1 }

/-- ONE EVALUATION of the unit u (R14): its ports wired as given, `outs` its output names with the values it computes.
Refused if an input is not driven (R318); otherwise the edge check (R305); otherwise Ok(outputs). -/
def evaluate (u : Cell) (ports : List PortUse) (outs : List (Name × Value)) (s : State) : Outcome :=
  match evaluationRefusal s u ports (outs.map Prod.fst) with
  | some r => .refused r
  | none =>
    match illegalInputs s u ports with
    | [] => .next (s.commit outs)
    | x :: xs => raiseDomainError s x xs

/-- The next line of the netlist and the state with it moved to the evaluated lines, or none at the end of the run (D15). -/
def State.fetch (s : State) : Option (Line × State) :=
  match s.lines with
  | [] => none
  | l :: ls => some (l, { s with lines := ls, evaluated := s.evaluated ++ [l] })

/-- A netlist with one line put before its lines. -/
def State.placeLine (s : State) (l : Line) : State := { s with lines := l :: s.lines }

end Sys2Proof.Machine
end

