-- ==== Sys2Proof/Machine/Gates.lean ====
section
/-! DEFINITION. The gate layer (spec/40_gates.md): five primitives over Bits, none built from another (R102). -/

namespace Sys2Proof.Machine

/-- R103: 1 if a = 1 and b = 1, else 0. -/
def gateAnd : Bit → Bit → Bit
  | true, true => true
  | _, _ => false

/-- R104: 1 if a = 1 or b = 1, else 0. -/
def gateOr : Bit → Bit → Bit
  | false, false => false
  | _, _ => true

/-- R105: 1 − a. -/
def gateNot : Bit → Bit
  | false => true
  | true => false

/-- R106: 0 if a = 1 and b = 1, else 1 (one gate: 90_conflicts.md C6). -/
def gateNand : Bit → Bit → Bit
  | true, true => false
  | _, _ => true

/-- R107: 1 if exactly one of a, b is 1, else 0 (90_conflicts.md C1). -/
def gateXor : Bit → Bit → Bit
  | true, false => true
  | false, true => true
  | false, false => false
  | true, true => false

/-- R103. -/
def execAnd (out : Name) (a b : BitSrc) (s : State) : Outcome :=
  evaluate .and [bitPort .a a, bitPort .b b] [(out, .bit (gateAnd (readBit s a) (readBit s b)))] s

/-- R104. -/
def execOr (out : Name) (a b : BitSrc) (s : State) : Outcome :=
  evaluate .or [bitPort .a a, bitPort .b b] [(out, .bit (gateOr (readBit s a) (readBit s b)))] s

/-- R105. -/
def execNot (out : Name) (a : BitSrc) (s : State) : Outcome :=
  evaluate .not [bitPort .a a] [(out, .bit (gateNot (readBit s a)))] s

/-- R106: an error is NAND's own, since it checks both operands before computing. -/
def execNand (out : Name) (a b : BitSrc) (s : State) : Outcome :=
  evaluate .nand [bitPort .a a, bitPort .b b] [(out, .bit (gateNand (readBit s a) (readBit s b)))] s

/-- R107. -/
def execXor (out : Name) (a b : BitSrc) (s : State) : Outcome :=
  evaluate .xor [bitPort .a a, bitPort .b b] [(out, .bit (gateXor (readBit s a) (readBit s b)))] s

end Sys2Proof.Machine
end

