-- ==== Sys2Proof/Machine/Chips.lean ====
section
/-! DEFINITION. The chip layer (spec/41_chips.md), each chip the composition of gates and lower chips the source fixes. -/

namespace Sys2Proof.Machine

/-- R120: (sum, carry), one XOR and one AND fed by a and b. -/
def halfAdder (a b : Bit) : Bit × Bit := (gateXor a b, gateAnd a b)

/-- R122: (sum, carry_out), two half adders and an OR. R121 gives the function it computes. -/
def fullAdder (a b c : Bit) : Bit × Bit :=
  let h1 := halfAdder a b
  let h2 := halfAdder h1.1 c
  (h2.1, gateOr h1.2 h2.2)

/-- The carry c_k into bit position k of A + B (R124): c_0 = 0, and c_(k+1) is the carry out of the full adder at k. -/
def carryAt (A B : Word16) : Nat → Bit
  | 0 => false
  | k + 1 => (fullAdder (A.getLsbD k) (B.getLsbD k) (carryAt A B k)).2

/-- R124: sixteen full adders, the carry rippling from position 0 to position 15; c_16 is discarded (R125). R123 gives
the function: the sum modulo 2^16. -/
def adder16 (A B : Word16) : Word16 :=
  mapBits (fun k => (fullAdder (A.getLsbD k) (B.getLsbD k) (carryAt A B k)).1) 16

/-- R126: one adder16 with B tied to 0x0001 (R75). -/
def inc16 (A : Word16) : Word16 := adder16 A 0x0001#16

/-- R127: a whole-word select. -/
def mux16 (A B : Word16) : Bit → Word16
  | false => A
  | true => B

/-- R128: sixteen NOT gates, one per position. -/
def not16 (A : Word16) : Word16 := mapBits (fun k => gateNot (A.getLsbD k)) 16

/-- R129: sixteen AND gates, one per aligned pair of positions. -/
def and16 (A B : Word16) : Word16 := mapBits (fun k => gateAnd (A.getLsbD k) (B.getLsbD k)) 16

/-- R120: output order (sum, carry). -/
def execHalfAdder (sum carry : Name) (a b : BitSrc) (s : State) : Outcome :=
  let r := halfAdder (readBit s a) (readBit s b)
  evaluate .halfAdder [bitPort .a a, bitPort .b b] [(sum, .bit r.1), (carry, .bit r.2)] s

/-- R121, R122: output order (sum, carry_out). -/
def execFullAdder (sum carryOut : Name) (a b c : BitSrc) (s : State) : Outcome :=
  let r := fullAdder (readBit s a) (readBit s b) (readBit s c)
  evaluate .fullAdder [bitPort .a a, bitPort .b b, bitPort .c c] [(sum, .bit r.1), (carryOut, .bit r.2)] s

/-- R123, R124, R125. -/
def execAdder16 (C : Name) (A B : WordSrc) (s : State) : Outcome :=
  evaluate .adder16 [wordPort .A A, wordPort .B B] [(C, .word (adder16 (readWord s A) (readWord s B)))] s

/-- R126. -/
def execInc16 (out : Name) (A : WordSrc) (s : State) : Outcome :=
  evaluate .inc16 [wordPort .A A] [(out, .word (inc16 (readWord s A)))] s

/-- R127. -/
def execMux16 (out : Name) (A B : WordSrc) (sel : BitSrc) (s : State) : Outcome :=
  evaluate .mux16 [wordPort .A A, wordPort .B B, bitPort .sel sel]
    [(out, .word (mux16 (readWord s A) (readWord s B) (readBit s sel)))] s

/-- R128. -/
def execNot16 (out : Name) (A : WordSrc) (s : State) : Outcome :=
  evaluate .not16 [wordPort .A A] [(out, .word (not16 (readWord s A)))] s

/-- R129. -/
def execAnd16 (out : Name) (A B : WordSrc) (s : State) : Outcome :=
  evaluate .and16 [wordPort .A A, wordPort .B B] [(out, .word (and16 (readWord s A) (readWord s B)))] s

end Sys2Proof.Machine
end

