-- ==== Sys2Proof/Machine/Flags.lean ====
section
/-! DEFINITION. The alu's two status outputs, computed from the final word out of the same evaluation (R157 to R159). -/

namespace Sys2Proof.Machine

/-- zr is 1 if and only if every Bit of out is 0 (R157). -/
def flagZr (out : Word16) : Bit := out == 0#16

/-- ng is out's sign bit, `out⟨0⟩`, which is `out[15]` (R158). -/
def flagNg (out : Word16) : Bit := out.elem 0

end Sys2Proof.Machine
end

