-- ==== Sys2Proof/Machine/Alu.lean ====
section
/-! DEFINITION. The ALU layer (spec/42_alu.md): the five stages, the status outputs, and the unit alu. -/

namespace Sys2Proof.Machine

/-- The words of one alu evaluation, stage by stage; none survives it (R36). -/
structure AluStages where
  x1     : Word16   -- x′
  x2     : Word16   -- x″
  y1     : Word16   -- y′
  y2     : Word16   -- y″
  preOut : Word16
  out    : Word16
deriving DecidableEq, Repr

/-- Stages 1 and 2 on one operand: zero it, then complement it (R152, R153; R154 for y). -/
def zeroStage (w : Word16) (z : Bit) : Word16 := mux16 w 0x0000#16 z

/-- Stage 2: complement, not arithmetic negation (R153). -/
def complementStage (w : Word16) (n : Bit) : Word16 := mux16 w (not16 w) n

/-- Stage 4: f = 0 selects AND, f = 1 selects ADD (R155); both are computed and f chooses one (R162, D13). -/
def functionStage (x2 y2 : Word16) (f : Bit) : Word16 := mux16 (and16 x2 y2) (adder16 x2 y2) f

/-- The pipeline in its fixed order (R151): zx then nx on x, zy then ny on y, then f, then no. -/
def aluStages (x y : Word16) (zx nx zy ny f no : Bit) : AluStages :=
  let x1 := zeroStage x zx
  let x2 := complementStage x1 nx
  let y1 := zeroStage y zy
  let y2 := complementStage y1 ny
  let p := functionStage x2 y2 f
  ⟨x1, x2, y1, y2, p, complementStage p no⟩

/-- The result word of the alu (R160). -/
def aluOut (x y : Word16) (zx nx zy ny f no : Bit) : Word16 := (aluStages x y zx nx zy ny f no).out

/-- The named outputs of an alu line: out, and zr and ng where the line names them (R81), each computed from out (R159). -/
def aluOutputs (d : AluDest) (out : Word16) : List (Name × Value) :=
  match d.flags with
  | none => [(d.out, .word out)]
  | some (z, n) => [(d.out, .word out), (z, .bit (flagZr out)), (n, .bit (flagNg out))]

/-- R150, R160: the alu with its six control ports wired to sources. A control value outside {0,1} is caught by the edge
check like any other input (R304, R305). -/
def execAlu (d : AluDest) (x y : WordSrc) (zx nx zy ny f no : BitSrc) (s : State) : Outcome :=
  evaluate .alu (aluPorts x y zx nx zy ny f no)
    (aluOutputs d (aluOut (readWord s x) (readWord s y) (readBit s zx) (readBit s nx) (readBit s zy) (readBit s ny)
      (readBit s f) (readBit s no))) s

/-- One control code: the alu with its control ports tied to the code's six Bits (R72, log entry 16). -/
def execCode (zx nx zy ny f no : Bit) (d : AluDest) (x y : WordSrc) (s : State) : Outcome :=
  evaluate .alu (aluPorts x y (.lit zx) (.lit nx) (.lit zy) (.lit ny) (.lit f) (.lit no))
    (aluOutputs d (aluOut (readWord s x) (readWord s y) zx nx zy ny f no)) s

end Sys2Proof.Machine
end

