-- ==== Sys2Proof/Machine/AluCodes.lean ====
section
/-! DEFINITION. The 64 control codes ALU.000000 to ALU.111111 (spec/43_alu_codes.md), ctl = zx nx zy ny f no (R72). -/

namespace Sys2Proof.Machine

/-- R200: `out = x & y`. -/
def execAlu000000 (d : AluDest) (x y : WordSrc) (s : State) : Outcome := execCode false false false false false false d x y s

/-- R201: `out = ~(x & y)`. -/
def execAlu000001 (d : AluDest) (x y : WordSrc) (s : State) : Outcome := execCode false false false false false true d x y s

/-- R202: `out = x + y`. -/
def execAlu000010 (d : AluDest) (x y : WordSrc) (s : State) : Outcome := execCode false false false false true false d x y s

/-- R203: `out = -x - y - 1`. -/
def execAlu000011 (d : AluDest) (x y : WordSrc) (s : State) : Outcome := execCode false false false false true true d x y s

/-- R204: `out = x & ~y`. -/
def execAlu000100 (d : AluDest) (x y : WordSrc) (s : State) : Outcome := execCode false false false true false false d x y s

/-- R205: `out = ~x | y`. -/
def execAlu000101 (d : AluDest) (x y : WordSrc) (s : State) : Outcome := execCode false false false true false true d x y s

/-- R206: `out = x - y - 1`. -/
def execAlu000110 (d : AluDest) (x y : WordSrc) (s : State) : Outcome := execCode false false false true true false d x y s

/-- R207: `out = y - x`. -/
def execAlu000111 (d : AluDest) (x y : WordSrc) (s : State) : Outcome := execCode false false false true true true d x y s

/-- R208: `out = 0x0000`. -/
def execAlu001000 (d : AluDest) (x y : WordSrc) (s : State) : Outcome := execCode false false true false false false d x y s

/-- R209: `out = 0xFFFF`. -/
def execAlu001001 (d : AluDest) (x y : WordSrc) (s : State) : Outcome := execCode false false true false false true d x y s

/-- R210: `out = x`. -/
def execAlu001010 (d : AluDest) (x y : WordSrc) (s : State) : Outcome := execCode false false true false true false d x y s

/-- R211: `out = ~x`. -/
def execAlu001011 (d : AluDest) (x y : WordSrc) (s : State) : Outcome := execCode false false true false true true d x y s

/-- R212: `out = x`. -/
def execAlu001100 (d : AluDest) (x y : WordSrc) (s : State) : Outcome := execCode false false true true false false d x y s

/-- R213: `out = ~x`. -/
def execAlu001101 (d : AluDest) (x y : WordSrc) (s : State) : Outcome := execCode false false true true false true d x y s

/-- R214: `out = x - 1`. -/
def execAlu001110 (d : AluDest) (x y : WordSrc) (s : State) : Outcome := execCode false false true true true false d x y s

/-- R215: `out = -x`. -/
def execAlu001111 (d : AluDest) (x y : WordSrc) (s : State) : Outcome := execCode false false true true true true d x y s

/-- R216: `out = ~x & y`. -/
def execAlu010000 (d : AluDest) (x y : WordSrc) (s : State) : Outcome := execCode false true false false false false d x y s

/-- R217: `out = x | ~y`. -/
def execAlu010001 (d : AluDest) (x y : WordSrc) (s : State) : Outcome := execCode false true false false false true d x y s

/-- R218: `out = y - x - 1`. -/
def execAlu010010 (d : AluDest) (x y : WordSrc) (s : State) : Outcome := execCode false true false false true false d x y s

/-- R219: `out = x - y`. -/
def execAlu010011 (d : AluDest) (x y : WordSrc) (s : State) : Outcome := execCode false true false false true true d x y s

/-- R220: `out = ~(x | y)`. -/
def execAlu010100 (d : AluDest) (x y : WordSrc) (s : State) : Outcome := execCode false true false true false false d x y s

/-- R221: `out = x | y`. -/
def execAlu010101 (d : AluDest) (x y : WordSrc) (s : State) : Outcome := execCode false true false true false true d x y s

/-- R222: `out = -x - y - 2`. -/
def execAlu010110 (d : AluDest) (x y : WordSrc) (s : State) : Outcome := execCode false true false true true false d x y s

/-- R223: `out = x + y + 1`. -/
def execAlu010111 (d : AluDest) (x y : WordSrc) (s : State) : Outcome := execCode false true false true true true d x y s

/-- R224: `out = 0x0000`. -/
def execAlu011000 (d : AluDest) (x y : WordSrc) (s : State) : Outcome := execCode false true true false false false d x y s

/-- R225: `out = 0xFFFF`. -/
def execAlu011001 (d : AluDest) (x y : WordSrc) (s : State) : Outcome := execCode false true true false false true d x y s

/-- R226: `out = ~x`. -/
def execAlu011010 (d : AluDest) (x y : WordSrc) (s : State) : Outcome := execCode false true true false true false d x y s

/-- R227: `out = x`. -/
def execAlu011011 (d : AluDest) (x y : WordSrc) (s : State) : Outcome := execCode false true true false true true d x y s

/-- R228: `out = ~x`. -/
def execAlu011100 (d : AluDest) (x y : WordSrc) (s : State) : Outcome := execCode false true true true false false d x y s

/-- R229: `out = x`. -/
def execAlu011101 (d : AluDest) (x y : WordSrc) (s : State) : Outcome := execCode false true true true false true d x y s

/-- R230: `out = -x - 2`. -/
def execAlu011110 (d : AluDest) (x y : WordSrc) (s : State) : Outcome := execCode false true true true true false d x y s

/-- R231: `out = x + 1`. -/
def execAlu011111 (d : AluDest) (x y : WordSrc) (s : State) : Outcome := execCode false true true true true true d x y s

/-- R232: `out = 0x0000`. -/
def execAlu100000 (d : AluDest) (x y : WordSrc) (s : State) : Outcome := execCode true false false false false false d x y s

/-- R233: `out = 0xFFFF`. -/
def execAlu100001 (d : AluDest) (x y : WordSrc) (s : State) : Outcome := execCode true false false false false true d x y s

/-- R234: `out = y`. -/
def execAlu100010 (d : AluDest) (x y : WordSrc) (s : State) : Outcome := execCode true false false false true false d x y s

/-- R235: `out = ~y`. -/
def execAlu100011 (d : AluDest) (x y : WordSrc) (s : State) : Outcome := execCode true false false false true true d x y s

/-- R236: `out = 0x0000`. -/
def execAlu100100 (d : AluDest) (x y : WordSrc) (s : State) : Outcome := execCode true false false true false false d x y s

/-- R237: `out = 0xFFFF`. -/
def execAlu100101 (d : AluDest) (x y : WordSrc) (s : State) : Outcome := execCode true false false true false true d x y s

/-- R238: `out = ~y`. -/
def execAlu100110 (d : AluDest) (x y : WordSrc) (s : State) : Outcome := execCode true false false true true false d x y s

/-- R239: `out = y`. -/
def execAlu100111 (d : AluDest) (x y : WordSrc) (s : State) : Outcome := execCode true false false true true true d x y s

/-- R240: `out = 0x0000`. -/
def execAlu101000 (d : AluDest) (x y : WordSrc) (s : State) : Outcome := execCode true false true false false false d x y s

/-- R241: `out = 0xFFFF`. -/
def execAlu101001 (d : AluDest) (x y : WordSrc) (s : State) : Outcome := execCode true false true false false true d x y s

/-- R242: `out = 0x0000`. -/
def execAlu101010 (d : AluDest) (x y : WordSrc) (s : State) : Outcome := execCode true false true false true false d x y s

/-- R243: `out = 0xFFFF`. -/
def execAlu101011 (d : AluDest) (x y : WordSrc) (s : State) : Outcome := execCode true false true false true true d x y s

/-- R244: `out = 0x0000`. -/
def execAlu101100 (d : AluDest) (x y : WordSrc) (s : State) : Outcome := execCode true false true true false false d x y s

/-- R245: `out = 0xFFFF`. -/
def execAlu101101 (d : AluDest) (x y : WordSrc) (s : State) : Outcome := execCode true false true true false true d x y s

/-- R246: `out = 0xFFFF`. -/
def execAlu101110 (d : AluDest) (x y : WordSrc) (s : State) : Outcome := execCode true false true true true false d x y s

/-- R247: `out = 0x0000`. -/
def execAlu101111 (d : AluDest) (x y : WordSrc) (s : State) : Outcome := execCode true false true true true true d x y s

/-- R248: `out = y`. -/
def execAlu110000 (d : AluDest) (x y : WordSrc) (s : State) : Outcome := execCode true true false false false false d x y s

/-- R249: `out = ~y`. -/
def execAlu110001 (d : AluDest) (x y : WordSrc) (s : State) : Outcome := execCode true true false false false true d x y s

/-- R250: `out = y - 1`. -/
def execAlu110010 (d : AluDest) (x y : WordSrc) (s : State) : Outcome := execCode true true false false true false d x y s

/-- R251: `out = -y`. -/
def execAlu110011 (d : AluDest) (x y : WordSrc) (s : State) : Outcome := execCode true true false false true true d x y s

/-- R252: `out = ~y`. -/
def execAlu110100 (d : AluDest) (x y : WordSrc) (s : State) : Outcome := execCode true true false true false false d x y s

/-- R253: `out = y`. -/
def execAlu110101 (d : AluDest) (x y : WordSrc) (s : State) : Outcome := execCode true true false true false true d x y s

/-- R254: `out = -y - 2`. -/
def execAlu110110 (d : AluDest) (x y : WordSrc) (s : State) : Outcome := execCode true true false true true false d x y s

/-- R255: `out = y + 1`. -/
def execAlu110111 (d : AluDest) (x y : WordSrc) (s : State) : Outcome := execCode true true false true true true d x y s

/-- R256: `out = 0x0000`. -/
def execAlu111000 (d : AluDest) (x y : WordSrc) (s : State) : Outcome := execCode true true true false false false d x y s

/-- R257: `out = 0xFFFF`. -/
def execAlu111001 (d : AluDest) (x y : WordSrc) (s : State) : Outcome := execCode true true true false false true d x y s

/-- R258: `out = 0xFFFF`. -/
def execAlu111010 (d : AluDest) (x y : WordSrc) (s : State) : Outcome := execCode true true true false true false d x y s

/-- R259: `out = 0x0000`. -/
def execAlu111011 (d : AluDest) (x y : WordSrc) (s : State) : Outcome := execCode true true true false true true d x y s

/-- R260: `out = 0xFFFF`. -/
def execAlu111100 (d : AluDest) (x y : WordSrc) (s : State) : Outcome := execCode true true true true false false d x y s

/-- R261: `out = 0x0000`. -/
def execAlu111101 (d : AluDest) (x y : WordSrc) (s : State) : Outcome := execCode true true true true false true d x y s

/-- R262: `out = 0xFFFE`. -/
def execAlu111110 (d : AluDest) (x y : WordSrc) (s : State) : Outcome := execCode true true true true true false d x y s

/-- R263: `out = 0x0001`. -/
def execAlu111111 (d : AluDest) (x y : WordSrc) (s : State) : Outcome := execCode true true true true true true d x y s

end Sys2Proof.Machine
end

