-- ==== Sys2Proof/Machine/Dispatch.lean ====
section
/-! DEFINITION. One arm for each constructor of Instr: the meaning of every row of spec/opcode_table.json. -/

namespace Sys2Proof.Machine

def exec (i : Instr) (s : State) : Host.Outcome State Fault Refusal :=
  match i with
  | .and out a b => Sys2Proof.Machine.execAnd out a b s
  | .or out a b => Sys2Proof.Machine.execOr out a b s
  | .not out a => Sys2Proof.Machine.execNot out a s
  | .nand out a b => Sys2Proof.Machine.execNand out a b s
  | .xor out a b => Sys2Proof.Machine.execXor out a b s
  | .halfAdder sum carry a b => Sys2Proof.Machine.execHalfAdder sum carry a b s
  | .fullAdder sum carryOut a b c => Sys2Proof.Machine.execFullAdder sum carryOut a b c s
  | .adder16 C A B => Sys2Proof.Machine.execAdder16 C A B s
  | .inc16 out A => Sys2Proof.Machine.execInc16 out A s
  | .mux16 out A B sel => Sys2Proof.Machine.execMux16 out A B sel s
  | .not16 out A => Sys2Proof.Machine.execNot16 out A s
  | .and16 out A B => Sys2Proof.Machine.execAnd16 out A B s
  | .alu d x y zx nx zy ny f no => Sys2Proof.Machine.execAlu d x y zx nx zy ny f no s
  | .alu000000 d x y => Sys2Proof.Machine.execAlu000000 d x y s
  | .alu000001 d x y => Sys2Proof.Machine.execAlu000001 d x y s
  | .alu000010 d x y => Sys2Proof.Machine.execAlu000010 d x y s
  | .alu000011 d x y => Sys2Proof.Machine.execAlu000011 d x y s
  | .alu000100 d x y => Sys2Proof.Machine.execAlu000100 d x y s
  | .alu000101 d x y => Sys2Proof.Machine.execAlu000101 d x y s
  | .alu000110 d x y => Sys2Proof.Machine.execAlu000110 d x y s
  | .alu000111 d x y => Sys2Proof.Machine.execAlu000111 d x y s
  | .alu001000 d x y => Sys2Proof.Machine.execAlu001000 d x y s
  | .alu001001 d x y => Sys2Proof.Machine.execAlu001001 d x y s
  | .alu001010 d x y => Sys2Proof.Machine.execAlu001010 d x y s
  | .alu001011 d x y => Sys2Proof.Machine.execAlu001011 d x y s
  | .alu001100 d x y => Sys2Proof.Machine.execAlu001100 d x y s
  | .alu001101 d x y => Sys2Proof.Machine.execAlu001101 d x y s
  | .alu001110 d x y => Sys2Proof.Machine.execAlu001110 d x y s
  | .alu001111 d x y => Sys2Proof.Machine.execAlu001111 d x y s
  | .alu010000 d x y => Sys2Proof.Machine.execAlu010000 d x y s
  | .alu010001 d x y => Sys2Proof.Machine.execAlu010001 d x y s
  | .alu010010 d x y => Sys2Proof.Machine.execAlu010010 d x y s
  | .alu010011 d x y => Sys2Proof.Machine.execAlu010011 d x y s
  | .alu010100 d x y => Sys2Proof.Machine.execAlu010100 d x y s
  | .alu010101 d x y => Sys2Proof.Machine.execAlu010101 d x y s
  | .alu010110 d x y => Sys2Proof.Machine.execAlu010110 d x y s
  | .alu010111 d x y => Sys2Proof.Machine.execAlu010111 d x y s
  | .alu011000 d x y => Sys2Proof.Machine.execAlu011000 d x y s
  | .alu011001 d x y => Sys2Proof.Machine.execAlu011001 d x y s
  | .alu011010 d x y => Sys2Proof.Machine.execAlu011010 d x y s
  | .alu011011 d x y => Sys2Proof.Machine.execAlu011011 d x y s
  | .alu011100 d x y => Sys2Proof.Machine.execAlu011100 d x y s
  | .alu011101 d x y => Sys2Proof.Machine.execAlu011101 d x y s
  | .alu011110 d x y => Sys2Proof.Machine.execAlu011110 d x y s
  | .alu011111 d x y => Sys2Proof.Machine.execAlu011111 d x y s
  | .alu100000 d x y => Sys2Proof.Machine.execAlu100000 d x y s
  | .alu100001 d x y => Sys2Proof.Machine.execAlu100001 d x y s
  | .alu100010 d x y => Sys2Proof.Machine.execAlu100010 d x y s
  | .alu100011 d x y => Sys2Proof.Machine.execAlu100011 d x y s
  | .alu100100 d x y => Sys2Proof.Machine.execAlu100100 d x y s
  | .alu100101 d x y => Sys2Proof.Machine.execAlu100101 d x y s
  | .alu100110 d x y => Sys2Proof.Machine.execAlu100110 d x y s
  | .alu100111 d x y => Sys2Proof.Machine.execAlu100111 d x y s
  | .alu101000 d x y => Sys2Proof.Machine.execAlu101000 d x y s
  | .alu101001 d x y => Sys2Proof.Machine.execAlu101001 d x y s
  | .alu101010 d x y => Sys2Proof.Machine.execAlu101010 d x y s
  | .alu101011 d x y => Sys2Proof.Machine.execAlu101011 d x y s
  | .alu101100 d x y => Sys2Proof.Machine.execAlu101100 d x y s
  | .alu101101 d x y => Sys2Proof.Machine.execAlu101101 d x y s
  | .alu101110 d x y => Sys2Proof.Machine.execAlu101110 d x y s
  | .alu101111 d x y => Sys2Proof.Machine.execAlu101111 d x y s
  | .alu110000 d x y => Sys2Proof.Machine.execAlu110000 d x y s
  | .alu110001 d x y => Sys2Proof.Machine.execAlu110001 d x y s
  | .alu110010 d x y => Sys2Proof.Machine.execAlu110010 d x y s
  | .alu110011 d x y => Sys2Proof.Machine.execAlu110011 d x y s
  | .alu110100 d x y => Sys2Proof.Machine.execAlu110100 d x y s
  | .alu110101 d x y => Sys2Proof.Machine.execAlu110101 d x y s
  | .alu110110 d x y => Sys2Proof.Machine.execAlu110110 d x y s
  | .alu110111 d x y => Sys2Proof.Machine.execAlu110111 d x y s
  | .alu111000 d x y => Sys2Proof.Machine.execAlu111000 d x y s
  | .alu111001 d x y => Sys2Proof.Machine.execAlu111001 d x y s
  | .alu111010 d x y => Sys2Proof.Machine.execAlu111010 d x y s
  | .alu111011 d x y => Sys2Proof.Machine.execAlu111011 d x y s
  | .alu111100 d x y => Sys2Proof.Machine.execAlu111100 d x y s
  | .alu111101 d x y => Sys2Proof.Machine.execAlu111101 d x y s
  | .alu111110 d x y => Sys2Proof.Machine.execAlu111110 d x y s
  | .alu111111 d x y => Sys2Proof.Machine.execAlu111111 d x y s

end Sys2Proof.Machine
end

