-- ==== Sys2Proof/Machine/Step.lean ====
section
/-! DEFINITION. One step: the next netlist line is taken, decoded and evaluated (R81, R333, D15). -/

namespace Sys2Proof.Machine

/-- Evaluate the next line. The line is off the list, and counts as evaluated, when its evaluation starts. -/
def step (s : State) : Host.Outcome State Fault Refusal :=
  match s.fetch with
  | none => .refused .runEnded
  | some (l, t) =>
    match decode l with
    | .error e => .refused (.badLine e)
    | .ok i => exec i t

/-- The state with the instruction of a table word as its next line (log entries 6 and 7). -/
def State.withFetchWord (s : State) (nbits w : Nat) : State := s.placeLine (tableLine nbits w)

end Sys2Proof.Machine
end

