-- ==== Sys2Proof/Machine/Timing.lean ====
section
/-! DEFINITION. Gate counts (R337) and gate depths (R338), from the structure rules. Size and timing figures: no step reads
them, and they carry no time unit (log entry 21). -/

namespace Sys2Proof.Machine.Timing

/-- How many of each primitive gate a unit has, and how many parts whose gates the source does not fix (D12). -/
structure GateCount where
  and          : Nat := 0
  or           : Nat := 0
  not          : Nat := 0
  nand         : Nat := 0
  xor          : Nat := 0
  mux16        : Nat := 0
  zeroDetector : Nat := 0
deriving DecidableEq, Repr

def GateCount.add (p q : GateCount) : GateCount :=
  ⟨p.and + q.and, p.or + q.or, p.not + q.not, p.nand + q.nand, p.xor + q.xor, p.mux16 + q.mux16,
    p.zeroDetector + q.zeroDetector⟩

def GateCount.times (k : Nat) (p : GateCount) : GateCount :=
  ⟨k * p.and, k * p.or, k * p.not, k * p.nand, k * p.xor, k * p.mux16, k * p.zeroDetector⟩

/-- The primitive gates: "Each primitive gate of 40_gates.md counts as one" (R337). -/
def GateCount.gates (p : GateCount) : Nat := p.and + p.or + p.not + p.nand + p.xor

def halfAdderCount : GateCount := GateCount.add { xor := 1 } { and := 1 }
def fullAdderCount : GateCount := GateCount.add (GateCount.times 2 halfAdderCount) { or := 1 }
def adder16Count : GateCount := GateCount.times 16 fullAdderCount
def not16Count : GateCount := { not := 16 }
def and16Count : GateCount := { and := 16 }

/-- The alu: three not16 (nx, ny, no), one and16, one adder16, six mux16 (zx, nx, zy, ny, the f selection of R162, no)
and a zero detector; ng is a wire (R337). -/
def aluCount : GateCount :=
  GateCount.add (GateCount.times 3 not16Count) <| GateCount.add and16Count <| GateCount.add adder16Count
    { mux16 := 6, zeroDetector := 1 }

/-- The gates of every unit, before any constant is simplified away (R337). -/
def gateCount : Cell → GateCount
  | .and => { and := 1 }
  | .or => { or := 1 }
  | .not => { not := 1 }
  | .nand => { nand := 1 }
  | .xor => { xor := 1 }
  | .halfAdder => halfAdderCount
  | .fullAdder => fullAdderCount
  | .adder16 => adder16Count
  | .inc16 => adder16Count
  | .mux16 => { mux16 := 1 }
  | .not16 => not16Count
  | .and16 => and16Count
  | .alu => aluCount

/-- The depth of one gate's output: a level after its latest input (R338). -/
def gateDepth (a b : Nat) : Nat := max a b + 1

/-- The depths of (sum, carry) when a and b stand at the given depths. -/
def halfAdderDepth (a b : Nat) : Nat × Nat := (gateDepth a b, gateDepth a b)

/-- The depths of (sum, carry_out), through the structure of R122. -/
def fullAdderDepth (a b c : Nat) : Nat × Nat :=
  let h1 := halfAdderDepth a b
  let h2 := halfAdderDepth h1.1 c
  (h2.1, gateDepth h1.2 h2.2)

/-- The depth of the carry into position k of adder16, its operands' Bits all at depth d; the constant c_0 is at depth 0. -/
def carryDepth (d : Nat) : Nat → Nat
  | 0 => 0
  | k + 1 => (fullAdderDepth d d (carryDepth d k)).2

/-- The depth of sum bit position k of adder16. -/
def sumDepth (d k : Nat) : Nat := (fullAdderDepth d d (carryDepth d k)).1

/-- The depth of adder16's output word: its latest Bit. -/
def adder16Depth (d : Nat) : Nat := (List.range 16).foldl (fun m k => max m (sumDepth d k)) 0

/-- The depth of inc16's output word: the same as adder16, the constant B not simplified away (R338). -/
def inc16Depth (d : Nat) : Nat := adder16Depth d

/-- The depth of not16's output word. -/
def not16Depth (d : Nat) : Nat := d + 1

/-- The depth of and16's output word. -/
def and16Depth (d e : Nat) : Nat := gateDepth d e

/-- The depth of mux16's output word, M the depth of a mux16. -/
def mux16Depth (M d e sel : Nat) : Nat := max (max d e) sel + M

/-- The depths along the alu (R338). -/
structure AluDepths where
  operand : Nat   -- x″ and y″
  and16   : Nat
  adder16 : Nat
  preOut  : Nat
  out     : Nat
  ng      : Nat
  zr      : Nat
deriving DecidableEq, Repr

/-- The alu's depths with mux16 depth M and zero-detector depth Z, its inputs and constants at depth 0. -/
def aluDepthsWith (M Z : Nat) : AluDepths :=
  let d1 := mux16Depth M 0 0 0
  let d2 := mux16Depth M d1 (not16Depth d1) 0
  let da := and16Depth d2 d2
  let ds := adder16Depth d2
  let p := mux16Depth M da ds 0
  let o := mux16Depth M p (not16Depth p) 0
  ⟨d2, da, ds, p, o, o, o + Z⟩

/-- The alu's depths with the spec's own OPEN parameters (D12). -/
def aluDepths : AluDepths := aluDepthsWith Config.muxDepth Config.zrDepth

end Sys2Proof.Machine.Timing
end

