-- ==== Sys2Proof/Machine/Drive.lean ====
section
/-! DEFINITION. What the host does to a run from outside: it drives its inputs, releases them, and loads a netlist (D15).
"Whenever an input changes, an output has no defined value until every input of the unit is driven and the outputs have
settled. After that, the outputs are the function of the present inputs" (R331). -/

namespace Sys2Proof.Machine

/-- Whether a line is wired to one of the names, as an input or as an output. -/
def touches (ns : List Name) (l : Line) : Bool :=
  (l.uses.any fun n => ns.contains n) || l.outs.any fun n => ns.contains n

/-- The evaluated lines in two parts, each in its order: those that a change of the given names does not reach, and those
that it reaches, directly or through the outputs of lines before (R331). -/
def splitStale (changed : List Name) : List Line → List Line × List Line
  | [] => ([], [])
  | l :: ls =>
    if touches changed l then
      let r := splitStale (changed ++ l.outs) ls
      (r.1, l :: r.2)
    else
      let r := splitStale changed ls
      (l :: r.1, r.2)

/-- Host interface: stop driving a name. Its value goes, and so do the outputs of every line it reaches, which have no
defined value now (R331); those lines are evaluated again before the lines still to come (log entry 27). -/
def State.release (s : State) (n : Name) : State :=
  let r := splitStale [n] s.evaluated
  { s with
    nets := s.nets.eraseAll (n :: r.2.flatMap fun l => l.outs)
    lines := r.2 ++ s.lines
    evaluated := r.1 }

/-- Host interface: drive a name with a value, before the run (D15) or in the course of it (R331). Where that changes a value
already used, the outputs it reaches have no value until their lines have been evaluated again, on the present inputs. -/
def State.drive (s : State) (n : Name) (v : Value) : State :=
  if s.nets.get n = some v then s
  else { s.release n with nets := (s.release n).nets.set n v }

/-- Host interface: load a netlist, in place of any lines still to evaluate (log entries 7 and 28). -/
def State.load (s : State) (ls : List Line) : State := { s with lines := ls }

end Sys2Proof.Machine
end

