-- ==== Sys2Proof/Safety.lean ====
section
/-! DEFINITION. The terms claims use: what a source presents at a port, which states are legal, and what it means that an
evaluation yields outputs and changes nothing else. -/

namespace Sys2Proof.Machine

/-- The source presents the byte v at a Bit port: a literal or a driven Bit its 0 or 1, and where RAW_BITS is on a
raw byte itself (D1, D2). -/
def PresentsByte (s : State) (a : BitSrc) (v : Byte) : Prop :=
  (∃ b, a = .lit b ∧ v = Byte.ofBit b) ∨
  ∃ n, a = .net n ∧
    ((∃ b, s.nets.get n = some (.bit b) ∧ v = Byte.ofBit b) ∨
      (s.rawBits = true ∧ s.nets.get n = some (.rawBit v)))

/-- The source presents the sixteen bytes `v i`, i the source index, at a Word16 port. -/
def PresentsElems (s : State) (A : WordSrc) (v : Fin 16 → Byte) : Prop :=
  (∃ w, A = .lit w ∧ ∀ i, v i = Byte.ofBit (Word16.elem w i)) ∨
  ∃ n, A = .net n ∧
    ((∃ w, s.nets.get n = some (.word w) ∧ ∀ i, v i = Byte.ofBit (Word16.elem w i)) ∨
      (s.rawBits = true ∧ ∃ r : RawWord, s.nets.get n = some (.rawWord r) ∧ ∀ i, v i = r[i]))

/-- The source presents the legal Bit b. -/
def PresentsBit (s : State) (a : BitSrc) (b : Bit) : Prop := PresentsByte s a (Byte.ofBit b)

/-- The source presents the Word16 w, every element legal. -/
def PresentsWord (s : State) (A : WordSrc) (w : Word16) : Prop :=
  PresentsElems s A fun i => Byte.ofBit (Word16.elem w i)

/-- The names are undriven and distinct: a line may define them (R81). -/
def NewNames (s : State) (ns : List Name) : Prop := ns.Nodup ∧ ∀ n ∈ ns, s.nets.get n = none

/-- The outcome is the next state in which the named outputs have the given values AND NOTHING ELSE CHANGED: every other
name reads as before, the lines, those evaluated and RAW_BITS stay. (`draws` is the model's own counter.) -/
def Yields (s : State) (o : Outcome) (outs : List (Name × Value)) : Prop :=
  ∃ t, o = .next t ∧ (∀ p ∈ outs, t.nets.get p.1 = some p.2) ∧
    (∀ n, n ∉ outs.map Prod.fst → t.nets.get n = s.nets.get n) ∧
    t.lines = s.lines ∧ t.evaluated = s.evaluated ∧ t.rawBits = s.rawBits

/-- The outcome is a DomainError whose info satisfies P. -/
def FailsWith (o : Outcome) (P : DomainInfo → Prop) : Prop := ∃ info, o = .fault (.domainError info) ∧ P info

/-- The outcome is no DomainError. -/
def NoDomainError (o : Outcome) : Prop := ∀ info, o ≠ .fault (.domainError info)

/-- Every value a name carries is legal: no Bit outside {0,1}. -/
def State.legal (s : State) : Bool := s.nets.all fun p => p.2.isLegal

/-- The names and widths a state drives, for the check of a netlist over it. -/
def State.types (s : State) : NetTypes := s.nets.map fun p => (p.1, p.2.width)

/-- No name carries raw bytes while RAW_BITS is off. -/
def State.rawOnlyIfOn (s : State) : Bool := s.rawBits || s.nets.all fun p => !p.2.isRaw

/-- The invariant of a run on legal inputs: the map of names is canonical, every value is legal, and raw bytes stand only
where RAW_BITS is on. -/
def State.Inv (s : State) : Prop := s.nets.wf = true ∧ s.legal = true ∧ s.rawOnlyIfOn = true

/-! What a rule of spec/40_gates.md to 43_alu_codes.md says of its unit, in two parts: the outputs on legal inputs
("none in the two-valued model"), and the DomainError on illegal ones ("In the raw interface, DomainError …"). -/

/-- The info names the Bit port p, which presents the illegal byte v (R301). -/
def IllegalBit (p : PortName) (v : Byte) (info : DomainInfo) : Prop :=
  info.port = ⟨p, none⟩ ∧ info.value = v ∧ 1#8 < v

/-- The info names an element of the Word16 port p, which presents the bytes v, that is illegal (R301). -/
def IllegalElem (p : PortName) (v : Fin 16 → Byte) (info : DomainInfo) : Prop :=
  ∃ i, info.port = ⟨p, some i⟩ ∧ info.value = v i ∧ 1#8 < v i

/-- A unit of one Bit to one Bit computes g. -/
def BitUnit1 (u : Cell) (mk : Name → BitSrc → Instr) (g : Bit → Bit) : Prop :=
  (∀ s out a va, PresentsBit s a va → NewNames s [out] → Yields s (exec (mk out a) s) [(out, .bit (g va))]) ∧
  ∀ s out a va, PresentsByte s a va → NewNames s [out] → 1#8 < va →
    FailsWith (exec (mk out a) s) fun info => info.unit = u ∧ IllegalBit .a va info

/-- A unit of two Bits to one Bit computes g. -/
def BitUnit2 (u : Cell) (mk : Name → BitSrc → BitSrc → Instr) (g : Bit → Bit → Bit) : Prop :=
  (∀ s out a b va vb, PresentsBit s a va → PresentsBit s b vb → NewNames s [out] →
    Yields s (exec (mk out a b) s) [(out, .bit (g va vb))]) ∧
  ∀ s out a b va vb, PresentsByte s a va → PresentsByte s b vb → NewNames s [out] → 1#8 < va ∨ 1#8 < vb →
    FailsWith (exec (mk out a b) s) fun info => info.unit = u ∧ (IllegalBit .a va info ∨ IllegalBit .b vb info)

/-- A unit of one Word16 to one Word16 computes g. -/
def WordUnit1 (u : Cell) (mk : Name → WordSrc → Instr) (g : Word16 → Word16) : Prop :=
  (∀ s out A va, PresentsWord s A va → NewNames s [out] → Yields s (exec (mk out A) s) [(out, .word (g va))]) ∧
  ∀ s out A va, PresentsElems s A va → NewNames s [out] → (∃ i, 1#8 < va i) →
    FailsWith (exec (mk out A) s) fun info => info.unit = u ∧ IllegalElem .A va info

/-- A unit of two Word16s to one Word16 computes g. -/
def WordUnit2 (u : Cell) (mk : Name → WordSrc → WordSrc → Instr) (g : Word16 → Word16 → Word16) : Prop :=
  (∀ s out A B va vb, PresentsWord s A va → PresentsWord s B vb → NewNames s [out] →
    Yields s (exec (mk out A B) s) [(out, .word (g va vb))]) ∧
  ∀ s out A B va vb, PresentsElems s A va → PresentsElems s B vb → NewNames s [out] →
    (∃ i, 1#8 < va i) ∨ (∃ i, 1#8 < vb i) →
    FailsWith (exec (mk out A B) s) fun info => info.unit = u ∧ (IllegalElem .A va info ∨ IllegalElem .B vb info)

/-- The outputs of an alu line under the names it gives them (R81). -/
def aluNamed (d : AluDest) (out : Word16) (zr ng : Bit) : List (Name × Value) :=
  match d.flags with
  | none => [(d.out, .word out)]
  | some (z, n) => [(d.out, .word out), (z, .bit zr), (n, .bit ng)]

/-- A rule of spec/43_alu_codes.md: the control code's line decodes to the instruction; on legal operands out is `f x y`,
zr is 1 exactly under the rule's own condition, ng is out[15]; an operand with an illegal Bit is a DomainError of alu. -/
def CodeRule (ctl : Byte) (mk : AluDest → WordSrc → WordSrc → Instr) (f : Word16 → Word16 → Word16)
    (zr : Word16 → Word16 → Bool) : Prop :=
  (∀ d x y, decode ⟨.code ctl, d.names, [x.src, y.src]⟩ = .ok (mk d x y)) ∧
  (∀ s d x y vx vy, PresentsWord s x vx → PresentsWord s y vy → NewNames s d.names →
    Yields s (exec (mk d x y) s) (aluNamed d (f vx vy) (zr vx vy) ((f vx vy).getLsbD 15))) ∧
  ∀ s d x y vx vy, PresentsElems s x vx → PresentsElems s y vy → NewNames s d.names →
    (∃ i, 1#8 < vx i) ∨ (∃ i, 1#8 < vy i) →
    FailsWith (exec (mk d x y) s) fun info => info.unit = .alu ∧ (IllegalElem .x vx info ∨ IllegalElem .y vy info)

/-- A row of R82: the pseudo-instruction's line decodes to its control code's instruction, which on legal operands gives
out `f x y` and changes nothing but its outputs. The line's form, with outputs, is the model's choice (log entry 29). -/
def PseudoRule (p : Pseudo) (mk : AluDest → WordSrc → WordSrc → Instr) (f : Word16 → Word16 → Word16) : Prop :=
  (∀ d x y, decode ⟨.pseudo p, d.names, [x.src, y.src]⟩ = .ok (mk d x y)) ∧
  ∀ s d x y vx vy, PresentsWord s x vx → PresentsWord s y vy → NewNames s d.names →
    Yields s (exec (mk d x y) s) (aluNamed d (f vx vy) (decide (f vx vy = 0x0000#16)) ((f vx vy).getLsbD 15))

/-- The result word of a control code on the operands x and y. -/
def codeOut (c : BitVec 6) (x y : Word16) : Word16 :=
  aluOut x y (c.getLsbD 5) (c.getLsbD 4) (c.getLsbD 3) (c.getLsbD 2) (c.getLsbD 1) (c.getLsbD 0)

/-- An input Bit of the instruction's unit that is outside {0,1}, as a DomainError's info names it: a raw byte at a Bit
port, or an element of a raw word (R301, R305). -/
def IllegalInput (s : State) (i : Instr) (info : DomainInfo) : Prop :=
  info.unit = i.cell ∧ 1#8 < info.value ∧ ∃ p ∈ i.ports, info.port.port = p.port ∧ ∃ n, p.src = .net n ∧
    ((s.nets.get n = some (.rawBit info.value) ∧ info.port.elem = none) ∨
      ∃ (r : RawWord) (k : Fin 16), s.nets.get n = some (.rawWord r) ∧ info.port.elem = some k ∧ info.value = r[k])

/-- The port is driven by a value of its width: a literal or a name; raw bytes only where RAW_BITS is on (R318, D2). -/
def PortDriven (s : State) (p : PortUse) : Prop :=
  match p.src with
  | .bit _ => p.width = .bit
  | .word _ => p.width = .word
  | .net n => ∃ v, s.nets.get n = some v ∧ v.width = p.width ∧ (v.isRaw = true → s.rawBits = true)

/-- Every input port of the instruction is driven (R318). -/
def InputsDriven (s : State) (i : Instr) : Prop := ∀ p ∈ i.ports, PortDriven s p

/-- Two states present the same to the instruction: the same value on every name it uses, and the same interface. -/
def SameInputs (s t : State) (i : Instr) : Prop :=
  s.rawBits = t.rawBits ∧ ∀ n ∈ i.uses, s.nets.get n = t.nets.get n

/-- The outputs of the line carry what its unit computes from the PRESENT values of its inputs (R331): evaluated again with
its output names undriven, it would answer a next state with the same values on them. -/
def LineSettled (s : State) (l : Line) : Prop :=
  ∃ i t, decode l = .ok i ∧ exec i { s with nets := s.nets.eraseAll i.dests } = .next t ∧
    ∀ n ∈ i.dests, t.nets.get n = s.nets.get n

/-- Every evaluated line is settled; and each follows the lines it uses, no name being an output of two of them (R81). -/
def State.Settled (s : State) : Prop :=
  (∀ l ∈ s.evaluated, LineSettled s l) ∧
    s.evaluated.Pairwise fun l k => ∀ n ∈ k.outs, n ∉ l.outs ∧ n ∉ l.uses

end Sys2Proof.Machine
end

