-- ==== Sys2Proof/Certificates/Slice0/Obligations.lean ====
section
/-! DEFINITION. The statements for the provers, each from a rule of spec/. -/

open Sys2Proof Sys2Proof.Machine

/-- State.reset drives no name, holds no netlist line, none evaluated, and has RAW_BITS off. RAW_BITS off is the default
of R9; the empty netlist is the model's choice (log entry 2), since CORE has nothing to reset (R330, R37).
[00_scope.md section 3, RAW_BITS "off by default", 70_reset_and_hazards.md section 1] -/
def Obligations.ResetDrivesNothing : Prop :=
  (∀ n, State.reset.nets.get n = none) ∧ State.reset.lines = [] ∧ State.reset.evaluated = [] ∧ State.reset.rawBits = false

/-- State.reset satisfies Inv: its map of names is canonical, every value it carries is legal, and no raw bytes stand
where RAW_BITS is off. State.reset itself, no name driven and no line loaded, is the model's choice (log entry 2,
DESIGN CHOICE); the spec has nothing to reset (R330, R37). [00_scope.md section 3, 60_exceptions.md section 2,
notes/assumptions/2.md] -/
def Obligations.ResetMeetsRunInvariant : Prop :=
  State.reset.Inv

/-- If the next line decodes to i, step is exec i on the state with that line moved to the evaluated ones. If it does not
decode, step is refused with the decoder's reason; with no line left the run has ended and step is refused (log entry
8). [92_eei_decisions.md D15, 30_encoding.md section 4, 70_reset_and_hazards.md section 2] -/
def Obligations.StepEvaluatesDecodedLine : Prop :=
  (∀ (s : State) l ls i, s.lines = l :: ls → decode l = .ok i → 
    step s = exec i { s with lines := ls, evaluated := s.evaluated ++ [l] }) ∧
  (∀ (s : State) l ls e, s.lines = l :: ls → decode l = .error e → step s = .refused (.badLine e)) ∧
  ∀ s : State, s.lines = [] → step s = .refused .runEnded

/-- For every state and every word of the opcode table (6 control bits in one byte), the decoder reads the code's
instruction, with x and y the literal 0x0000 and the outputs named 0, 1, 2 (the model's filler, log entry 6), and the
next step of the state with that word placed runs exactly that instruction on that state, its line counted as
evaluated. [30_encoding.md section 1, opcode_table.json] -/
def Obligations.TableWordIsNextStep : Prop :=
  ∀ (s : State) (ctl : BitVec 6),
    decodeTableWord 8 ctl.toNat = some (Instr.ofCode ctl ⟨0, some (1, 2)⟩ (.lit 0#16) (.lit 0#16)) ∧
    step (s.withFetchWord 8 ctl.toNat) = exec (Instr.ofCode ctl ⟨0, some (1, 2)⟩ (.lit 0#16) (.lit 0#16))
      { s with evaluated := s.evaluated ++ [tableLine 8 ctl.toNat] }

/-- Lines written out from R70 and R81 decode to the instructions they stand for: one gate, one adder cell, one 16-wide
chip; and the codes 010011 of the spec's own example (R72) and 111111. That a code stands in its line as a byte whose
two upper bits are 0 is the model's choice (log entry 5, DEDUCED), and so is the fourth line, the unit alu with its
control ports wired to sources in the order of R70 (log entry 23, DEDUCED): R81 writes an alu only with a code.
[30_encoding.md sections 1 and 4, opcode_table.json, notes/assumptions/5.md, notes/assumptions/23.md] -/
def Obligations.SpecWordsDecode : Prop :=
  decode ⟨.cell .nand, [7], [.net 3, .bit true]⟩ = .ok (.nand 7 (.net 3) (.lit true)) ∧
  decode ⟨.cell .fullAdder, [5, 6], [.net 1, .net 2, .bit false]⟩ = .ok (.fullAdder 5 6 (.net 1) (.net 2) (.lit false)) ∧
  decode ⟨.cell .mux16, [4], [.net 1, .word 0xABCD#16, .net 2]⟩ = .ok (.mux16 4 (.net 1) (.lit 0xABCD#16) (.net 2)) ∧
  decode ⟨.cell .alu, [9], [.net 1, .net 2, .bit false, .net 3, .bit false, .bit true, .bit true, .bit false]⟩ =
    .ok (.alu ⟨9, none⟩ (.net 1) (.net 2) (.lit false) (.net 3) (.lit false) (.lit true) (.lit true) (.lit false)) ∧
  decode ⟨.code 0b00010011#8, [3, 4, 5], [.net 1, .net 2]⟩ = .ok (.alu010011 ⟨3, some (4, 5)⟩ (.net 1) (.net 2)) ∧
  decode ⟨.code 0b00111111#8, [3], [.net 1, .net 2]⟩ = .ok (.alu111111 ⟨3, none⟩ (.net 1) (.net 2))

/-- For every instruction, with every operand at every value, decode (encode i) is i: no source, output name or control
bit of a line is dropped. [30_encoding.md sections 1, 3 and 4] -/
def Obligations.DecodeOfEncodeIsTheInstruction : Prop :=
  ∀ i : Instr, decode (encode i) = .ok i

/-- The decoder gives an instruction only one spelling: if a line whose selector is no pseudo-instruction decodes to i,
the line is encode i. So no two such lines are confused, and nothing of a line is ignored. [30_encoding.md sections 1
and 3] -/
def Obligations.DecodableLineIsCanonical : Prop :=
  ∀ (l : Line) (i : Instr), decode l = .ok i → (∀ p, l.sel ≠ .pseudo p) → encode i = l

/-- For every 6-bit value and operands, the line of that control code decodes to an instruction that evaluates the unit
alu; different values give different instructions; a control byte of more than six bits is rejected. The first two
clauses are the totality of R79; the byte that holds a code, and the rejection of one from 64 on, are the model's
choice (log entry 5, DEDUCED). [30_encoding.md R79, notes/assumptions/5.md] -/
def Obligations.EveryControlCodeDecodes : Prop :=
  (∀ (ctl : BitVec 6) (d : AluDest) (x y : WordSrc),
    decode ⟨.code (ctl.setWidth 8), d.names, [x.src, y.src]⟩ = .ok (Instr.ofCode ctl d x y) ∧
    (Instr.ofCode ctl d x y).cell = .alu) ∧
  (∀ (c c' : BitVec 6) (d : AluDest) (x y : WordSrc), Instr.ofCode c d x y = Instr.ofCode c' d x y → c = c') ∧
  ∀ (b : Byte) (outs : List Name) (ins : List Src), 64 ≤ b.toNat → decode ⟨.code b, outs, ins⟩ = .error .controlCode

/-- For every row of the table of R82, the pseudo-instruction's line decodes to its control code's instruction, and on
legal operands that instruction's result word is the row's function of x and y, named with its zr and ng as the line
names them, and nothing else changed. The codes and functions are R82's; that an alias has a line with one output name
or three, in the form of the code it stands for, is the model's choice (log entry 29, DESIGN CHOICE), since R82 writes
only `SUB x, y` and R81 lists no line with outputs for an alias. [30_encoding.md R82, 30_encoding.md R81,
notes/assumptions/29.md] -/
def Obligations.PseudoInstructionsExpand : Prop :=
  PseudoRule .zero .alu101010 (fun _ _ => 0x0000#16) ∧
  PseudoRule .one .alu111111 (fun _ _ => 0x0001#16) ∧
  PseudoRule .mone .alu111010 (fun _ _ => 0xFFFF#16) ∧
  PseudoRule .passx .alu001100 (fun x _ => x) ∧
  PseudoRule .passy .alu110000 (fun _ y => y) ∧
  PseudoRule .notx .alu001101 (fun x _ => ~~~x) ∧
  PseudoRule .noty .alu110001 (fun _ y => ~~~y) ∧
  PseudoRule .negx .alu001111 (fun x _ => -x) ∧
  PseudoRule .negy .alu110011 (fun _ y => -y) ∧
  PseudoRule .incx .alu011111 (fun x _ => x + 1) ∧
  PseudoRule .incy .alu110111 (fun _ y => y + 1) ∧
  PseudoRule .decx .alu001110 (fun x _ => x - 1) ∧
  PseudoRule .decy .alu110010 (fun _ y => y - 1) ∧
  PseudoRule .add .alu000010 (fun x y => x + y) ∧
  PseudoRule .sub .alu010011 (fun x y => x - y) ∧
  PseudoRule .rsub .alu000111 (fun x y => y - x) ∧
  PseudoRule .and .alu000000 (fun x y => x &&& y) ∧
  PseudoRule .or .alu010101 (fun x y => x ||| y)

/-- Each gate answers a next state in which its output name carries the truth table's Bit of the Bits its sources present,
and nothing else changed; with an input outside {0,1} on the raw interface it is a DomainError of that gate naming an
illegal input and its value. [R103, R104, R105, R106, R107, R302] -/
def Obligations.GateTruthTables : Prop :=
  BitUnit2 .and .and (fun a b => match a, b with | false, false => false | false, true => false | true, false => false | true, true => true) ∧
  BitUnit2 .or .or (fun a b => match a, b with | false, false => false | false, true => true | true, false => true | true, true => true) ∧
  BitUnit1 .not .not (fun a => match a with | false => true | true => false) ∧
  BitUnit2 .nand .nand (fun a b => match a, b with | false, false => true | false, true => true | true, false => true | true, true => false) ∧
  BitUnit2 .xor .xor (fun a b => match a, b with | false, false => false | false, true => true | true, false => true | true, true => false)

/-- The correct NAND-only construction of R107 equals XOR at all four inputs, and the expression nand(a, nand(a, nand(a,
b))) equals NAND(a, b) at all four and differs from XOR at (0, 0) (90_conflicts.md C1). [40_gates.md R107, its last
item, 90_conflicts.md C1, 95_test_vectors.md G6] -/
def Obligations.NandNetworkIsXor : Prop :=
  (∀ a b, gateNand (gateNand a (gateNand a b)) (gateNand b (gateNand a b)) = gateXor a b) ∧
  (∀ a b, gateNand a (gateNand a (gateNand a b)) = gateNand a b) ∧
  gateNand false (gateNand false (gateNand false false)) ≠ gateXor false false

/-- half_adder answers a next state in which sum and carry are XOR and AND of the presented Bits, so a + b = 2·carry +
sum, and nothing else changed; an illegal input is a DomainError of half_adder. [R120] -/
def Obligations.HalfAdderSumAndCarry : Prop :=
  (∀ s sum carry a b va vb, PresentsBit s a va → PresentsBit s b vb → NewNames s [sum, carry] →
    Yields s (exec (.halfAdder sum carry a b) s) [(sum, .bit (va ^^ vb)), (carry, .bit (va && vb))]) ∧
  (∀ a b : Bit, halfAdder a b = (gateXor a b, gateAnd a b) ∧ halfAdder a b = fullAdder a b false ∧
    a.toNat + b.toNat = 2 * (a && b).toNat + (a ^^ b).toNat) ∧
  ∀ s sum carry a b va vb, PresentsByte s a va → PresentsByte s b vb → NewNames s [sum, carry] → 1#8 < va ∨ 1#8 < vb →
    FailsWith (exec (.halfAdder sum carry a b) s)
      fun info => info.unit = .halfAdder ∧ (IllegalBit .a va info ∨ IllegalBit .b vb info)

/-- full_adder answers a next state in which sum is a XOR b XOR c and carry_out is 1 iff at least two inputs are 1, so a +
b + c = 2·carry_out + sum, and nothing else changed; it is built of two half_adders and an OR (R122), of which carry1
and carry2 are never both 1; an illegal input is a DomainError of full_adder. [R121, R122] -/
def Obligations.FullAdderSumAndMajority : Prop :=
  (∀ s sum carryOut a b c va vb vc, PresentsBit s a va → PresentsBit s b vb → PresentsBit s c vc →
    NewNames s [sum, carryOut] →
    Yields s (exec (.fullAdder sum carryOut a b c) s)
      [(sum, .bit (va ^^ vb ^^ vc)), (carryOut, .bit ((va && vb) || (vc && (va ^^ vb))))]) ∧
  (∀ a b c : Bit,
    a.toNat + b.toNat + c.toNat = 2 * ((a && b) || (c && (a ^^ b))).toNat + (a ^^ b ^^ c).toNat ∧
    (((a && b) || (c && (a ^^ b))) = true ↔ 2 ≤ a.toNat + b.toNat + c.toNat) ∧
    fullAdder a b c =
      ((halfAdder (halfAdder a b).1 c).1, gateOr (halfAdder a b).2 (halfAdder (halfAdder a b).1 c).2) ∧
    ((halfAdder a b).2 && (halfAdder (halfAdder a b).1 c).2) = false ∧
    halfAdder a b = fullAdder a b false) ∧
  ∀ s sum carryOut a b c va vb vc, PresentsByte s a va → PresentsByte s b vb → PresentsByte s c vc →
    NewNames s [sum, carryOut] → 1#8 < va ∨ 1#8 < vb ∨ 1#8 < vc →
    FailsWith (exec (.fullAdder sum carryOut a b c) s) fun info => info.unit = .fullAdder ∧
      (IllegalBit .a va info ∨ IllegalBit .b vb info ∨ IllegalBit .c vc info)

/-- adder16 answers a next state in which C is the sum of the presented words modulo 2^16 and nothing else changed,
whatever carries or signed overflow arise; an illegal element is a DomainError of adder16. [R123, R125] -/
def Obligations.Adder16ComputesSumModulo : Prop :=
  WordUnit2 .adder16 .adder16 (fun A B => BitVec.ofNat 16 ((A.toNat + B.toNat) % 65536))

/-- There is one chain of carries with c_0 = 0 in which full adder k takes A[k], B[k] and c_k and gives C[k] of the chip's
output and c_(k+1), for k = 0 to 15 (R124); and val(A) + val(B) = val(C) + 65536·c_16, so the carry discarded is
exactly the overflow (R123, R125). [41_chips.md R124, 41_chips.md R123, 41_chips.md R125] -/
def Obligations.RippleCarryIsTheSum : Prop :=
  ∀ A B : Word16, ∃ c : Nat → Bit, c 0 = false ∧
    (∀ k, k < 16 → fullAdder (A.getLsbD k) (B.getLsbD k) (c k) = ((adder16 A B).getLsbD k, c (k + 1))) ∧
    A.toNat + B.toNat = (adder16 A B).toNat + 65536 * (c 16).toNat

/-- inc16 answers a next state in which out is the presented word plus one modulo 2^16 and nothing else changed; it is
adder16 with B tied to 0x0001; an illegal element is a DomainError of inc16. [R126, R75] -/
def Obligations.Inc16AddsOne : Prop :=
  WordUnit1 .inc16 .inc16 (fun A => BitVec.ofNat 16 ((A.toNat + 1) % 65536)) ∧ ∀ A, inc16 A = adder16 A 0x0001#16

/-- mux16 answers a next state in which out is the whole word A or B as sel is 0 or 1 and nothing else changed; a selector
or an element of either word outside {0,1} is a DomainError of mux16 naming one of them, the unselected word included.
[R127, R303] -/
def Obligations.Mux16SelectsWholeWord : Prop :=
  (∀ s out A B sel va vb vs, PresentsWord s A va → PresentsWord s B vb → PresentsBit s sel vs → NewNames s [out] →
    Yields s (exec (.mux16 out A B sel) s) [(out, .word (if vs then vb else va))]) ∧
  ∀ s out A B sel va vb vs, PresentsElems s A va → PresentsElems s B vb → PresentsByte s sel vs → NewNames s [out] →
    (∃ i, 1#8 < va i) ∨ (∃ i, 1#8 < vb i) ∨ 1#8 < vs →
    FailsWith (exec (.mux16 out A B sel) s) fun info => info.unit = .mux16 ∧
      (IllegalElem .A va info ∨ IllegalElem .B vb info ∨ IllegalBit .sel vs info)

/-- not16 and and16 answer a next state in which every position k of out is NOT(A[k]), respectively AND(A[k], B[k]), and
nothing else changed; an illegal element is a DomainError of the unit. [R128, R129] -/
def Obligations.Not16AndAnd16AreBitwise : Prop :=
  WordUnit1 .not16 .not16 (fun A => ~~~A) ∧
  WordUnit2 .and16 .and16 (fun A B => A &&& B) ∧
  ∀ (A B : Word16) k, k < 16 → (not16 A).getLsbD k = gateNot (A.getLsbD k) ∧
    (and16 A B).getLsbD k = gateAnd (A.getLsbD k) (B.getLsbD k)

/-- If two inputs of not16, and16 or mux16 agree at position k, the outputs agree at k; if two inputs of adder16 or inc16
agree at positions 0 to k, the outputs agree at k. No position is moved. [41_chips.md section 5] -/
def Obligations.BitPositionsStayInPlace : Prop :=
  ∀ (A A' B B' : Word16) (sel : Bit) (k : Nat), k < 16 → A.getLsbD k = A'.getLsbD k → B.getLsbD k = B'.getLsbD k →
    (not16 A).getLsbD k = (not16 A').getLsbD k ∧
    (and16 A B).getLsbD k = (and16 A' B').getLsbD k ∧
    (mux16 A B sel).getLsbD k = (mux16 A' B' sel).getLsbD k ∧
    ((∀ j, j < k → A.getLsbD j = A'.getLsbD j ∧ B.getLsbD j = B'.getLsbD j) →
      (adder16 A B).getLsbD k = (adder16 A' B').getLsbD k ∧ (inc16 A).getLsbD k = (inc16 A').getLsbD k)

/-- alu answers a next state in which out is the pipeline's word of the presented operands and control Bits, zr is 1 iff
it is 0x0000, ng is its bit 15, and nothing else changed; an operand element or a control value outside {0,1} is a
DomainError of alu naming one of them (f among them, R304). [R160, R155, R304] -/
def Obligations.AluPipelineWithWiredControls : Prop :=
  (∀ s d x y zx nx zy ny f no vx vy bzx bnx bzy bny bf bno, PresentsWord s x vx → PresentsWord s y vy →
    PresentsBit s zx bzx → PresentsBit s nx bnx → PresentsBit s zy bzy → PresentsBit s ny bny → PresentsBit s f bf →
    PresentsBit s no bno → NewNames s d.names →
    let x1 := if bzx then 0x0000#16 else vx
    let x2 := if bnx then ~~~x1 else x1
    let y1 := if bzy then 0x0000#16 else vy
    let y2 := if bny then ~~~y1 else y1
    let p := if bf then x2 + y2 else x2 &&& y2
    let o := if bno then ~~~p else p
    Yields s (exec (.alu d x y zx nx zy ny f no) s) (aluNamed d o (decide (o = 0x0000#16)) (o.getLsbD 15))) ∧
  ∀ s d x y zx nx zy ny f no vx vy bzx bnx bzy bny bf bno, PresentsElems s x vx → PresentsElems s y vy →
    PresentsByte s zx bzx → PresentsByte s nx bnx → PresentsByte s zy bzy → PresentsByte s ny bny → PresentsByte s f bf →
    PresentsByte s no bno → NewNames s d.names →
    (∃ i, 1#8 < vx i) ∨ (∃ i, 1#8 < vy i) ∨ 1#8 < bzx ∨ 1#8 < bnx ∨ 1#8 < bzy ∨ 1#8 < bny ∨ 1#8 < bf ∨ 1#8 < bno →
    FailsWith (exec (.alu d x y zx nx zy ny f no) s) fun info => info.unit = .alu ∧
      (IllegalElem .x vx info ∨ IllegalElem .y vy info ∨ IllegalBit .zx bzx info ∨ IllegalBit .nx bnx info ∨
        IllegalBit .zy bzy info ∨ IllegalBit .ny bny info ∨ IllegalBit .f bf info ∨ IllegalBit .no bno info)

/-- Each stage of the alu is the mux16, not16, and16 or adder16 of its rule, in the fixed order; after the zero and
complement stages x″ is x, ~x, 0x0000 or 0xFFFF as zx nx say, and likewise y″. [R152, R153, R154, R156, R164] -/
def Obligations.AluStageValues : Prop :=
  ∀ (x y : Word16) (zx nx zy ny f no : Bit),
    (aluStages x y zx nx zy ny f no).x1 = mux16 x 0x0000#16 zx ∧
    (aluStages x y zx nx zy ny f no).x2 = mux16 (mux16 x 0x0000#16 zx) (not16 (mux16 x 0x0000#16 zx)) nx ∧
    (aluStages x y zx nx zy ny f no).y1 = mux16 y 0x0000#16 zy ∧
    (aluStages x y zx nx zy ny f no).y2 = mux16 (mux16 y 0x0000#16 zy) (not16 (mux16 y 0x0000#16 zy)) ny ∧
    (aluStages x y zx nx zy ny f no).preOut = (if f then
      adder16 (aluStages x y zx nx zy ny f no).x2 (aluStages x y zx nx zy ny f no).y2 else
      and16 (aluStages x y zx nx zy ny f no).x2 (aluStages x y zx nx zy ny f no).y2) ∧
    (aluStages x y zx nx zy ny f no).out = (if no then not16 (aluStages x y zx nx zy ny f no).preOut else
      (aluStages x y zx nx zy ny f no).preOut) ∧
    (aluStages x y zx nx zy ny f no).x2 = (match zx, nx with
      | false, false => x | false, true => ~~~x | true, false => 0x0000#16 | true, true => 0xFFFF#16) ∧
    (aluStages x y zx nx zy ny f no).y2 = (match zy, ny with
      | false, false => y | false, true => ~~~y | true, false => 0x0000#16 | true, true => 0xFFFF#16)

/-- For every 6-bit code, operands, output names and state, the code's instruction does exactly what the alu does with its
six control ports wired to the literals ctl[5] to ctl[0], in the order zx nx zy ny f no. The packing is R72's; that a
code's line is the alu with its six ports tied, on every path, is the model's reading (log entry 16, DEDUCED), and the
alu with wired control ports its own form of line (log entry 23, DEDUCED). [30_encoding.md R72,
notes/assumptions/16.md, notes/assumptions/23.md] -/
def Obligations.ControlCodeIsAluWithTiedControls : Prop :=
  ∀ (ctl : BitVec 6) (d : AluDest) (x y : WordSrc) (s : State),
    exec (Instr.ofCode ctl d x y) s =
      exec (.alu d x y (.lit (ctl.getLsbD 5)) (.lit (ctl.getLsbD 4)) (.lit (ctl.getLsbD 3)) (.lit (ctl.getLsbD 2))
        (.lit (ctl.getLsbD 1)) (.lit (ctl.getLsbD 0))) s

/-- For each of the eight codes 000000 to 000111: its line decodes to its instruction; on legal operands it answers a next
state in which out is the code's closed form, zr is 1 exactly under the condition its rule states, ng is out[15], and
nothing else changed; an operand element outside {0,1} is a DomainError of alu. [R200, R201, R202, R203, R204, R205,
R206, R207] -/
def Obligations.AluCodesXWithY : Prop :=
  CodeRule 0b00000000#8 .alu000000 (fun x y => x &&& y) (fun x y => decide (x &&& y = 0x0000#16)) ∧
  CodeRule 0b00000001#8 .alu000001 (fun x y => ~~~(x &&& y)) (fun x y => decide (x = 0xFFFF#16 ∧ y = 0xFFFF#16)) ∧
  CodeRule 0b00000010#8 .alu000010 (fun x y => x + y) (fun x y => decide (y = -x)) ∧
  CodeRule 0b00000011#8 .alu000011 (fun x y => -x - y - 1) (fun x y => decide (y = ~~~x)) ∧
  CodeRule 0b00000100#8 .alu000100 (fun x y => x &&& ~~~y) (fun x y => decide (x &&& ~~~y = 0x0000#16)) ∧
  CodeRule 0b00000101#8 .alu000101 (fun x y => ~~~x ||| y) (fun x y => decide (x = 0xFFFF#16 ∧ y = 0x0000#16)) ∧
  CodeRule 0b00000110#8 .alu000110 (fun x y => x - y - 1) (fun x y => decide (x = y + 1)) ∧
  CodeRule 0b00000111#8 .alu000111 (fun x y => y - x) (fun x y => decide (x = y))

/-- For each of the eight codes 001000 to 001111: its line decodes to its instruction; on legal operands it answers a next
state in which out is the code's closed form, zr is 1 exactly under the condition its rule states, ng is out[15], and
nothing else changed; an operand element outside {0,1} is a DomainError of alu. [R208, R209, R210, R211, R212, R213,
R214, R215] -/
def Obligations.AluCodesXWithConstant : Prop :=
  CodeRule 0b00001000#8 .alu001000 (fun _ _ => 0x0000#16) (fun _ _ => true) ∧
  CodeRule 0b00001001#8 .alu001001 (fun _ _ => 0xFFFF#16) (fun _ _ => false) ∧
  CodeRule 0b00001010#8 .alu001010 (fun x _ => x) (fun x _ => decide (x = 0x0000#16)) ∧
  CodeRule 0b00001011#8 .alu001011 (fun x _ => ~~~x) (fun x _ => decide (x = 0xFFFF#16)) ∧
  CodeRule 0b00001100#8 .alu001100 (fun x _ => x) (fun x _ => decide (x = 0x0000#16)) ∧
  CodeRule 0b00001101#8 .alu001101 (fun x _ => ~~~x) (fun x _ => decide (x = 0xFFFF#16)) ∧
  CodeRule 0b00001110#8 .alu001110 (fun x _ => x - 1) (fun x _ => decide (x = 0x0001#16)) ∧
  CodeRule 0b00001111#8 .alu001111 (fun x _ => -x) (fun x _ => decide (x = 0x0000#16))

/-- For each of the eight codes 010000 to 010111: its line decodes to its instruction; on legal operands it answers a next
state in which out is the code's closed form, zr is 1 exactly under the condition its rule states, ng is out[15], and
nothing else changed; an operand element outside {0,1} is a DomainError of alu. [R216, R217, R218, R219, R220, R221,
R222, R223] -/
def Obligations.AluCodesNotXWithY : Prop :=
  CodeRule 0b00010000#8 .alu010000 (fun x y => ~~~x &&& y) (fun x y => decide (~~~x &&& y = 0x0000#16)) ∧
  CodeRule 0b00010001#8 .alu010001 (fun x y => x ||| ~~~y) (fun x y => decide (x = 0x0000#16 ∧ y = 0xFFFF#16)) ∧
  CodeRule 0b00010010#8 .alu010010 (fun x y => y - x - 1) (fun x y => decide (y = x + 1)) ∧
  CodeRule 0b00010011#8 .alu010011 (fun x y => x - y) (fun x y => decide (x = y)) ∧
  CodeRule 0b00010100#8 .alu010100 (fun x y => ~~~(x ||| y)) (fun x y => decide (x ||| y = 0xFFFF#16)) ∧
  CodeRule 0b00010101#8 .alu010101 (fun x y => x ||| y) (fun x y => decide (x = 0x0000#16 ∧ y = 0x0000#16)) ∧
  CodeRule 0b00010110#8 .alu010110 (fun x y => -x - y - 2) (fun x y => decide (x + y = 0xFFFE#16)) ∧
  CodeRule 0b00010111#8 .alu010111 (fun x y => x + y + 1) (fun x y => decide (x + y = 0xFFFF#16))

/-- For each of the eight codes 011000 to 011111: its line decodes to its instruction; on legal operands it answers a next
state in which out is the code's closed form, zr is 1 exactly under the condition its rule states, ng is out[15], and
nothing else changed; an operand element outside {0,1} is a DomainError of alu. [R224, R225, R226, R227, R228, R229,
R230, R231] -/
def Obligations.AluCodesNotXWithConstant : Prop :=
  CodeRule 0b00011000#8 .alu011000 (fun _ _ => 0x0000#16) (fun _ _ => true) ∧
  CodeRule 0b00011001#8 .alu011001 (fun _ _ => 0xFFFF#16) (fun _ _ => false) ∧
  CodeRule 0b00011010#8 .alu011010 (fun x _ => ~~~x) (fun x _ => decide (x = 0xFFFF#16)) ∧
  CodeRule 0b00011011#8 .alu011011 (fun x _ => x) (fun x _ => decide (x = 0x0000#16)) ∧
  CodeRule 0b00011100#8 .alu011100 (fun x _ => ~~~x) (fun x _ => decide (x = 0xFFFF#16)) ∧
  CodeRule 0b00011101#8 .alu011101 (fun x _ => x) (fun x _ => decide (x = 0x0000#16)) ∧
  CodeRule 0b00011110#8 .alu011110 (fun x _ => -x - 2) (fun x _ => decide (x = 0xFFFE#16)) ∧
  CodeRule 0b00011111#8 .alu011111 (fun x _ => x + 1) (fun x _ => decide (x = 0xFFFF#16))

/-- For each of the eight codes 100000 to 100111: its line decodes to its instruction; on legal operands it answers a next
state in which out is the code's closed form, zr is 1 exactly under the condition its rule states, ng is out[15], and
nothing else changed; an operand element outside {0,1} is a DomainError of alu. [R232, R233, R234, R235, R236, R237,
R238, R239] -/
def Obligations.AluCodesZeroWithY : Prop :=
  CodeRule 0b00100000#8 .alu100000 (fun _ _ => 0x0000#16) (fun _ _ => true) ∧
  CodeRule 0b00100001#8 .alu100001 (fun _ _ => 0xFFFF#16) (fun _ _ => false) ∧
  CodeRule 0b00100010#8 .alu100010 (fun _ y => y) (fun _ y => decide (y = 0x0000#16)) ∧
  CodeRule 0b00100011#8 .alu100011 (fun _ y => ~~~y) (fun _ y => decide (y = 0xFFFF#16)) ∧
  CodeRule 0b00100100#8 .alu100100 (fun _ _ => 0x0000#16) (fun _ _ => true) ∧
  CodeRule 0b00100101#8 .alu100101 (fun _ _ => 0xFFFF#16) (fun _ _ => false) ∧
  CodeRule 0b00100110#8 .alu100110 (fun _ y => ~~~y) (fun _ y => decide (y = 0xFFFF#16)) ∧
  CodeRule 0b00100111#8 .alu100111 (fun _ y => y) (fun _ y => decide (y = 0x0000#16))

/-- For each of the eight codes 101000 to 101111: its line decodes to its instruction; on legal operands it answers a next
state in which out is the code's closed form, zr is 1 exactly under the condition its rule states, ng is out[15], and
nothing else changed; an operand element outside {0,1} is a DomainError of alu. [R240, R241, R242, R243, R244, R245,
R246, R247] -/
def Obligations.AluCodesZeroWithConstant : Prop :=
  CodeRule 0b00101000#8 .alu101000 (fun _ _ => 0x0000#16) (fun _ _ => true) ∧
  CodeRule 0b00101001#8 .alu101001 (fun _ _ => 0xFFFF#16) (fun _ _ => false) ∧
  CodeRule 0b00101010#8 .alu101010 (fun _ _ => 0x0000#16) (fun _ _ => true) ∧
  CodeRule 0b00101011#8 .alu101011 (fun _ _ => 0xFFFF#16) (fun _ _ => false) ∧
  CodeRule 0b00101100#8 .alu101100 (fun _ _ => 0x0000#16) (fun _ _ => true) ∧
  CodeRule 0b00101101#8 .alu101101 (fun _ _ => 0xFFFF#16) (fun _ _ => false) ∧
  CodeRule 0b00101110#8 .alu101110 (fun _ _ => 0xFFFF#16) (fun _ _ => false) ∧
  CodeRule 0b00101111#8 .alu101111 (fun _ _ => 0x0000#16) (fun _ _ => true)

/-- For each of the eight codes 110000 to 110111: its line decodes to its instruction; on legal operands it answers a next
state in which out is the code's closed form, zr is 1 exactly under the condition its rule states, ng is out[15], and
nothing else changed; an operand element outside {0,1} is a DomainError of alu. [R248, R249, R250, R251, R252, R253,
R254, R255] -/
def Obligations.AluCodesOnesWithY : Prop :=
  CodeRule 0b00110000#8 .alu110000 (fun _ y => y) (fun _ y => decide (y = 0x0000#16)) ∧
  CodeRule 0b00110001#8 .alu110001 (fun _ y => ~~~y) (fun _ y => decide (y = 0xFFFF#16)) ∧
  CodeRule 0b00110010#8 .alu110010 (fun _ y => y - 1) (fun _ y => decide (y = 0x0001#16)) ∧
  CodeRule 0b00110011#8 .alu110011 (fun _ y => -y) (fun _ y => decide (y = 0x0000#16)) ∧
  CodeRule 0b00110100#8 .alu110100 (fun _ y => ~~~y) (fun _ y => decide (y = 0xFFFF#16)) ∧
  CodeRule 0b00110101#8 .alu110101 (fun _ y => y) (fun _ y => decide (y = 0x0000#16)) ∧
  CodeRule 0b00110110#8 .alu110110 (fun _ y => -y - 2) (fun _ y => decide (y = 0xFFFE#16)) ∧
  CodeRule 0b00110111#8 .alu110111 (fun _ y => y + 1) (fun _ y => decide (y = 0xFFFF#16))

/-- For each of the eight codes 111000 to 111111: its line decodes to its instruction; on legal operands it answers a next
state in which out is the code's closed form, zr is 1 exactly under the condition its rule states, ng is out[15], and
nothing else changed; an operand element outside {0,1} is a DomainError of alu. [R256, R257, R258, R259, R260, R261,
R262, R263] -/
def Obligations.AluCodesOnesWithConstant : Prop :=
  CodeRule 0b00111000#8 .alu111000 (fun _ _ => 0x0000#16) (fun _ _ => true) ∧
  CodeRule 0b00111001#8 .alu111001 (fun _ _ => 0xFFFF#16) (fun _ _ => false) ∧
  CodeRule 0b00111010#8 .alu111010 (fun _ _ => 0xFFFF#16) (fun _ _ => false) ∧
  CodeRule 0b00111011#8 .alu111011 (fun _ _ => 0x0000#16) (fun _ _ => true) ∧
  CodeRule 0b00111100#8 .alu111100 (fun _ _ => 0xFFFF#16) (fun _ _ => false) ∧
  CodeRule 0b00111101#8 .alu111101 (fun _ _ => 0x0000#16) (fun _ _ => true) ∧
  CodeRule 0b00111110#8 .alu111110 (fun _ _ => 0xFFFE#16) (fun _ _ => false) ∧
  CodeRule 0b00111111#8 .alu111111 (fun _ _ => 0x0001#16) (fun _ _ => false)

/-- Whenever an instruction of the unit alu, its outputs named o, z, n, answers a next state, o carries a word, z carries
1 iff that word is 0x0000, n carries its bit 15, which is 1 iff its two's-complement reading is negative, and z and n
are not both 1. [R157, R158, R159] -/
def Obligations.AluFlagsFollowOut : Prop :=
  ∀ (i : Instr) (o z n : Name) (s t : State), i.cell = .alu → i.dests = [o, z, n] → exec i s = .next t →
    ∃ w : Word16, t.nets.get o = some (.word w) ∧ t.nets.get z = some (.bit (decide (w = 0x0000#16))) ∧
      t.nets.get n = some (.bit (w.getLsbD 15)) ∧ (w.getLsbD 15 = true ↔ Word16.sval w < 0) ∧
      ¬(decide (w = 0x0000#16) = true ∧ w.getLsbD 15 = true)

/-- On any Word16s: with all control bits 0 but f, the alu is adder16; with all 0, and16; with zx and zy alone, on one bus
wired to both operands, the result is 0x0000 with zr = 1 and ng = 0. [R163] -/
def Obligations.AluSourceLaws : Prop :=
  ∀ x y : Word16, aluOut x y false false false false true false = adder16 x y ∧
    aluOut x y false false false false false false = and16 x y ∧
    aluOut x x true false true false false false = 0x0000#16 ∧
    flagZr (aluOut x x true false true false false false) = true ∧
    flagNg (aluOut x x true false true false false false) = false

/-- For every presented operands whatever their sum, adder16, inc16 and ALU.000010 answer a next state with the sum modulo
65536; the two's-complement reading of the result is congruent to the sum of the readings. [41_chips.md R125,
42_alu.md R161, 60_exceptions.md R309] -/
def Obligations.OverflowIsWraparound : Prop :=
  ∀ s n A B va vb, PresentsWord s A va → PresentsWord s B vb → NewNames s [n] →
    (∃ t, exec (.adder16 n A B) s = .next t ∧ t.nets.get n = some (.word (va + vb))) ∧
    (∃ t, exec (.inc16 n A) s = .next t ∧ t.nets.get n = some (.word (va + 1#16))) ∧
    (∃ t, exec (.alu000010 ⟨n, none⟩ A B) s = .next t ∧ t.nets.get n = some (.word (va + vb))) ∧
    (va + vb).toNat = (va.toNat + vb.toNat) % 65536 ∧
    ∃ k : Int, Word16.sval va + Word16.sval vb = Word16.sval (va + vb) + 65536 * k

/-- The complement that not16 computes is −W − 1 and 0xFFFF − W modulo 2^16; ~(V & W) = ~V | ~W; ~(0xFFFF + y) = −y and
0xFFFF + y = y − 1, so negation needs no = 1 (90_conflicts.md C2). [R165] -/
def Obligations.ComplementIdentities : Prop :=
  ∀ V W : Word16, not16 W = -W - 1 ∧ not16 W = 0xFFFF#16 - W ∧ not16 (and16 V W) = not16 V ||| not16 W ∧
    aluOut V W true true false false true true = -W ∧ aluOut V W true true false false true false = W - 1

/-- There is a list of 32 control codes such that every code computes the same function of (x, y) as exactly one of them:
any two of the list differ on some operands. [42_alu.md R166, 90_conflicts.md C7] -/
def Obligations.ThirtyTwoAluFunctions : Prop :=
  ∃ reps : List (BitVec 6), reps.length = 32 ∧
    (∀ c : BitVec 6, ∃ r ∈ reps, ∀ x y, codeOut c x y = codeOut r x y) ∧
    reps.Pairwise fun r r' => ∃ x y, codeOut r x y ≠ codeOut r' x y

/-- For every Word16, bit position k is source index 15 − k, val is the sum of W[k]·2^k, below 65536, and sval is val −
65536·W[15], between −32768 and 32767. [R12] -/
def Obligations.WordNotation : Prop :=
  ∀ W : Word16, (∀ i : Fin 16, Word16.elem W i = W.getLsbD (15 - i.val)) ∧
    Word16.val W = ((List.range 16).map fun k => (W.getLsbD k).toNat * 2 ^ k).sum ∧ Word16.val W < 65536 ∧
    Word16.sval W = (Word16.val W : Int) - 65536 * ((W.getLsbD 15).toNat : Int) ∧
    -32768 ≤ Word16.sval W ∧ Word16.sval W ≤ 32767

/-- For every instruction whose input ports are all driven and whose output names are new: with no illegal input Bit it
answers a next state; with one or more it is a DomainError whose info (unit, port, value) is that of one of them,
which one being a draw. [R305, R306] -/
def Obligations.EdgeCheckDecidesOutcome : Prop :=
  ∀ (i : Instr) (s : State), InputsDriven s i → NewNames s i.dests →
    ((∀ info, ¬IllegalInput s i info) → ∃ t, exec i s = .next t) ∧
    ((∃ info, IllegalInput s i info) → FailsWith (exec i s) (IllegalInput s i))

/-- Whatever the instruction and the state, a fault is a DomainError of cause code 1, RAW_BITS is on, and its info (unit,
port, value) is that of an input Bit of the evaluated unit outside {0,1}. And there is a fault if and only if there is
such a Bit, every input port is driven with a value of its width and interface, and the output names are new: that a
port not so driven (log entries 11 and 12, DEDUCED) or a name not new (log entry 10, DEDUCED) is refused, and before
the Bits are checked (log entry 14, DESIGN CHOICE), is the model's choice and no rule of the spec. [60_exceptions.md
R300, 60_exceptions.md R301, 60_exceptions.md R305, notes/assumptions/10.md, notes/assumptions/11.md,
notes/assumptions/12.md, notes/assumptions/14.md] -/
def Obligations.DomainErrorOnlyFromIllegalInput : Prop :=
  (∀ (i : Instr) (s : State) (f : Fault), exec i s = .fault f →
    f.causeCode = 1 ∧ s.rawBits = true ∧ ∃ info, f = .domainError info ∧ IllegalInput s i info) ∧
  ∀ (i : Instr) (s : State), (∃ f, exec i s = .fault f) ↔
    InputsDriven s i ∧ NewNames s i.dests ∧ ∃ info, IllegalInput s i info

/-- In every state with RAW_BITS off, no instruction and no step is a DomainError, and an instruction whose input ports
are all driven and whose output names are new answers a next state. [R310] -/
def Obligations.TwoValuedInterfaceAlwaysOk : Prop :=
  ∀ s : State, s.rawBits = false → NoDomainError (step s) ∧
    ∀ i : Instr, NoDomainError (exec i s) ∧ (InputsDriven s i → NewNames s i.dests → ∃ t, exec i s = .next t)

/-- An instruction with any input port that is not driven by a value of its width and interface is refused; for a name
driven by nothing that is R318. Which reason the refusal names is the model's choice, and it is named before an output
name is looked at (log entry 14, DESIGN CHOICE). Where all the other ports are driven, it is: undrivenInput if the
names at fault are driven by nothing and no line still to come, nor the instruction itself, defines them (log entry 9,
DEDUCED); widthMismatch if they carry a value of the other width (R70, log entry 11, DEDUCED); rawBitsOff if they
carry raw bytes while RAW_BITS is off (D1, log entry 12, DEDUCED). [60_exceptions.md R318, 30_encoding.md R70,
92_eei_decisions.md D1 and D11, notes/assumptions/9.md, notes/assumptions/11.md, notes/assumptions/12.md,
notes/assumptions/14.md] -/
def Obligations.UndrivenInputHasNoOutcome : Prop :=
  ∀ (i : Instr) (s : State), (∃ p ∈ i.ports, ¬PortDriven s p) →
    (∃ r, exec i s = .refused r) ∧
    ((∀ p ∈ i.ports, PortDriven s p ∨ ∃ m, p.src = .net m ∧ s.nets.get m = none ∧ m ∉ i.dests ∧
        ∀ l ∈ s.lines, m ∉ l.outs) →
      exec i s = .refused (.undrivenInput i.cell)) ∧
    ((∀ p ∈ i.ports, PortDriven s p ∨ ∃ m v, p.src = .net m ∧ s.nets.get m = some v ∧ v.width ≠ p.width) →
      exec i s = .refused (.widthMismatch i.cell)) ∧
    ((∀ p ∈ i.ports, PortDriven s p ∨ ∃ m v, p.src = .net m ∧ s.nets.get m = some v ∧ v.width = p.width ∧
        v.isRaw = true ∧ s.rawBits = false) →
      exec i s = .refused (.rawBitsOff i.cell))

/-- An instruction that uses a name it defines itself is refused in every state; and if an undriven name it uses is
defined by itself or by a line still to come, its other ports being driven, the refusal is usedBeforeDefined of its
unit (log entry 9, DEDUCED). That this reason is named even where an output name is driven already or repeated is the
order of the model's checks, its own choice (log entry 14, DESIGN CHOICE). [70_reset_and_hazards.md R335,
30_encoding.md R81, notes/assumptions/9.md, notes/assumptions/14.md] -/
def Obligations.FeedbackIsRefused : Prop :=
  ∀ (i : Instr) (s : State),
    (i.noFeedback = false → ∃ r, exec i s = .refused r) ∧
    ((∃ p ∈ i.ports, ¬PortDriven s p) →
      (∀ p ∈ i.ports, PortDriven s p ∨ ∃ m, p.src = .net m ∧ s.nets.get m = none ∧
        (m ∈ i.dests ∨ ∃ l ∈ s.lines, m ∈ l.outs)) →
      exec i s = .refused (.usedBeforeDefined i.cell))

/-- If an output name of an instruction is driven already, or two of its output names are the same, it is refused in every
state, and with every input port driven the refusal is nameDefinedTwice of its unit (log entry 10, DEDUCED). That it
is refused even with an illegal raw input, because the output names are checked before the Bits, is the model's choice
(log entry 14, DESIGN CHOICE). [30_encoding.md R81, notes/assumptions/10.md, notes/assumptions/14.md] -/
def Obligations.NamesAreSingleAssignment : Prop :=
  ∀ (i : Instr) (s : State), ¬NewNames s i.dests →
    (∃ r, exec i s = .refused r) ∧ (InputsDriven s i → exec i s = .refused (.nameDefinedTwice i.cell))

/-- Whenever an instruction answers a next state: its output names were undriven and now carry legal values of their
ports' widths, every other name reads as before, in particular every name it uses, which is no output of its own; the
lines, those evaluated and RAW_BITS are unchanged. [R38] -/
def Obligations.EvaluationChangesOnlyItsOutputs : Prop :=
  ∀ (i : Instr) (s t : State), exec i s = .next t →
    (∀ n ∈ i.dests, s.nets.get n = none) ∧
    (∀ p ∈ i.defs, ∃ v, t.nets.get p.1 = some v ∧ v.width = p.2 ∧ v.isLegal = true ∧ v.isRaw = false) ∧
    (∀ n, n ∉ i.dests → t.nets.get n = s.nets.get n) ∧
    (∀ n ∈ i.uses, n ∉ i.dests ∧ t.nets.get n = s.nets.get n) ∧ t.lines = s.lines ∧
    t.evaluated = s.evaluated ∧ t.rawBits = s.rawBits

/-- Whenever a step answers a next state, the next line and no other is moved to the evaluated ones, every name driven
before carries the same value after, every name that the line does not define reads as before, and RAW_BITS is
unchanged. [92_eei_decisions.md D15, 10_state.md section 3] -/
def Obligations.StepTakesOneLineOff : Prop :=
  ∀ s t : State, step s = .next t →
    ∃ l, s.lines = l :: t.lines ∧ t.evaluated = s.evaluated ++ [l] ∧ (∀ n, n ∉ l.outs → t.nets.get n = s.nets.get n) ∧
      (∀ n v, s.nets.get n = some v → t.nets.get n = some v) ∧ t.rawBits = s.rawBits

/-- If two states present the same values to an instruction and its output names are new in both, it answers a next state
in both or in neither, with the same values on its outputs; and it is a DomainError in both or in neither, with the
same info in both where exactly one input Bit is illegal, and in any case an info of an input Bit illegal in both
(with several, the one named is a draw, R306). Nothing else in the state, no earlier outcome and no other evaluation,
has an effect. [R54, R57] -/
def Obligations.OutcomeDependsOnOwnInputsAlone : Prop :=
  ∀ (i : Instr) (s t : State), SameInputs s t i → NewNames s i.dests → NewNames t i.dests →
    (∀ s', exec i s = .next s' → ∃ t', exec i t = .next t' ∧ ∀ n ∈ i.dests, t'.nets.get n = s'.nets.get n) ∧
    ((∃ f, exec i s = .fault f) ↔ ∃ f, exec i t = .fault f) ∧
    (∀ info, exec i s = .fault (.domainError info) → (∀ other, IllegalInput s i other → other = info) →
      exec i t = .fault (.domainError info)) ∧
    ∀ info, exec i t = .fault (.domainError info) → IllegalInput s i info ∧ IllegalInput t i info

/-- If evaluating i and then j answers a next state t and j uses no name that i defines, then evaluating j and then i
answers a next state too, and it is t itself, the same value on every name: the end state of a netlist does not depend
on the order, as long as each line follows the lines it uses. (The state's map of names is canonical.)
[95_test_vectors.md section 3, 20_memory.md section 3] -/
def Obligations.EvaluationOrderDoesNotMatter : Prop :=
  ∀ (i j : Instr) (s u t : State), s.nets.wf = true → exec i s = .next u → exec j u = .next t →
    (∀ n ∈ j.uses, n ∉ i.dests) → ∃ u', exec j s = .next u' ∧ exec i u' = .next t

/-- For every state in which the map of names is canonical, every value is legal and raw bytes stand only where RAW_BITS
is on, a step that answers a next state leaves a state of which the same holds. [60_exceptions.md R308,
92_eei_decisions.md D1 and D2] -/
def Obligations.StepKeepsRunInvariant : Prop :=
  ∀ s t : State, s.Inv → step s = .next t → t.Inv

/-- If every value that a name carries is legal, then no instruction and no step is a DomainError, raw interface or not:
with legal inputs the edge check of every unit passes. [60_exceptions.md R305 and R308] -/
def Obligations.LegalRunHasNoDomainError : Prop :=
  ∀ s : State, s.legal = true → NoDomainError (step s) ∧ ∀ i, NoDomainError (exec i s)

/-- For every netlist, pseudo-instruction lines (R82, in the model's own form, log entry 29, DESIGN CHOICE) among its
lines or not, whose lines decode to instructions that are well formed over the names a state drives (single
assignment, each name defined before every line that uses it, ports of matching width), loaded into a legal state: as
many steps as it has lines answer a next state with no line left and all of them evaluated, in which every name a line
defines carries a legal value of its port's width and every name driven before is unchanged. [92_eei_decisions.md D15,
30_encoding.md R81, 30_encoding.md R82, 60_exceptions.md R310, notes/assumptions/29.md] -/
def Obligations.WellFormedNetlistRunsToItsEnd : Prop :=
  ∀ (is : List Instr) (s : State), s.Inv → s.lines.map decode = is.map Except.ok → Netlist.wellFormed s.types is = true →
    ∃ t : State, Host.Core.run Sys2Proof.core is.length s = .next t ∧ t.lines = [] ∧
      t.evaluated = s.evaluated ++ s.lines ∧
      (∀ i ∈ is, ∀ p ∈ i.defs, ∃ v, t.nets.get p.1 = some v ∧ v.width = p.2 ∧ v.isLegal = true) ∧
      ∀ n v, s.nets.get n = some v → t.nets.get n = some v

/-- If as many steps as a state has lines answer a next state, then its lines decode to instructions that form a well-
formed netlist over the names the state drives: every name single-assignment and defined before every line that uses
it (R81), every port wired to a value of its width (R70; the refusal of another width is log entry 11, DEDUCED). So no
cyclic composition is ever evaluated to its end. [70_reset_and_hazards.md R335, 30_encoding.md R81, 30_encoding.md
R70, notes/assumptions/11.md] -/
def Obligations.CompletedNetlistWasWellFormed : Prop :=
  ∀ s t : State, Host.Core.run Sys2Proof.core s.lines.length s = .next t →
    ∃ is : List Instr, s.lines.map decode = is.map Except.ok ∧ Netlist.wellFormed s.types is = true

/-- For every instruction, its input ports with their widths are those that R70 lists for its unit, in order, and it names
one output for each output port of the unit (for the alu, or the word output alone). [30_encoding.md section 1, the
table of R70] -/
def Obligations.PortsAreThoseOfTheUnit : Prop :=
  ∀ i : Instr, (i.ports.map fun p => (p.port, p.width)) = i.cell.inputs ∧
    (i.dests.length = i.cell.outputs.length ∨ (i.cell = .alu ∧ i.dests.length = 1))

/-- half_adder has 2 gates (1 XOR, 1 AND), full_adder 5 (2 XOR, 2 AND, 1 OR), adder16 and inc16 80 (32 XOR, 32 AND, 16
OR), not16 16 NOT, and16 16 AND, and the alu 144 gates (48 NOT, and16's 16 AND, adder16's 80) plus six mux16 and a
zero detector. [R337] -/
def Obligations.GateCountsOfUnits : Prop :=
  Timing.gateCount .halfAdder = { xor := 1, and := 1 } ∧
  Timing.gateCount .fullAdder = { xor := 2, and := 2, or := 1 } ∧
  Timing.gateCount .adder16 = { xor := 32, and := 32, or := 16 } ∧
  Timing.gateCount .inc16 = { xor := 32, and := 32, or := 16 } ∧
  Timing.gateCount .not16 = { not := 16 } ∧
  Timing.gateCount .and16 = { and := 16 } ∧
  Timing.gateCount .mux16 = { mux16 := 1 } ∧
  Timing.gateCount .alu = { xor := 32, and := 48, or := 16, not := 48, mux16 := 6, zeroDetector := 1 } ∧
  [Cell.halfAdder, .fullAdder, .adder16, .inc16, .not16, .and16, .alu].map (fun u => (Timing.gateCount u).gates) =
    [2, 5, 80, 80, 16, 16, 144] ∧
  [Cell.and, .or, .not, .nand, .xor].map (fun u => (Timing.gateCount u).gates) = [1, 1, 1, 1, 1]

/-- A full adder's sum is 2 deep and its carry_out 3 from a or b and 2 from c; in adder16 the sum at position k is at
depth 2k + 2 and the carry into k + 1 at 2k + 3, so C[15] is at 32 and c_16 at 33; and for every mux16 depth M and
zero-detector depth Z the alu's depths are those of R338. [R338] -/
def Obligations.GateDepthsOfUnits : Prop :=
  Timing.halfAdderDepth 0 0 = (1, 1) ∧ Timing.fullAdderDepth 0 0 0 = (2, 3) ∧
  (∀ d, (Timing.fullAdderDepth 0 0 (d + 1)).2 = max 3 (d + 1 + 2)) ∧
  (∀ k, Timing.sumDepth 0 k = 2 * k + 2 ∧ Timing.carryDepth 0 (k + 1) = 2 * k + 3) ∧
  Timing.sumDepth 0 15 = 32 ∧ Timing.carryDepth 0 16 = 33 ∧ Timing.adder16Depth 0 = 32 ∧ Timing.inc16Depth 0 = 32 ∧
  Timing.not16Depth 0 = 1 ∧ Timing.and16Depth 0 0 = 1 ∧
  ∀ M Z, Timing.aluDepthsWith M Z =
    { operand := 2 * M + 1, and16 := 2 * M + 2, adder16 := 2 * M + 33, preOut := 3 * M + 33, out := 4 * M + 34,
      ng := 4 * M + 34, zr := 4 * M + 34 + Z }

/-- State.reset is Settled, since no line is evaluated in it. That it holds no line is the model's choice (log entry 2,
DESIGN CHOICE). [70_reset_and_hazards.md R331, notes/assumptions/2.md] -/
def Obligations.ResetIsSettled : Prop :=
  State.reset.Settled

/-- For every state in which each evaluated line carries what its unit computes from the present values of its inputs, and
follows the lines it uses: the same holds after a step that answers a next state, after the host drives any name with
any value, after it stops driving one, and after it loads a netlist. So no output that has a value rests on an earlier
input (R331). Which lines are evaluated again, and when, is the model's reading (log entry 27, DEDUCED).
[70_reset_and_hazards.md R331, 20_memory.md R56, notes/assumptions/27.md] -/
def Obligations.OutputsFollowPresentInputs : Prop :=
  (∀ s t : State, s.Settled → step s = .next t → t.Settled) ∧
  (∀ (s : State) (n : Name) (v : Value), s.Settled → (s.drive n v).Settled) ∧
  (∀ (s : State) (n : Name), s.Settled → (s.release n).Settled) ∧
  ∀ (s : State) (ls : List Line), s.Settled → (s.load ls).Settled

/-- When the host drives a name with another value than it carries: the name carries the new value; every output of an
evaluated line that uses the name is undriven (R331), unless it is the name driven itself, and so are the outputs of
every line that is to be evaluated again; those lines come before the lines still to evaluate, none lost, both parts
in their order (log entry 27, DEDUCED); every name that none of them defines reads as before. In a settled state they
are just the lines the change reaches: no other evaluated line uses the name or an output of one of them, and each of
them uses or defines the name or uses an output of another. Where the value is the one it carries nothing changes.
RAW_BITS stays. [70_reset_and_hazards.md R331, notes/assumptions/27.md] -/
def Obligations.ChangedInputUndefinesItsOutputs : Prop :=
  ∀ (s : State) (n : Name) (v : Value),
    (s.nets.get n = some v → s.drive n v = s) ∧
    (s.nets.get n ≠ some v →
      (s.drive n v).nets.get n = some v ∧ (s.drive n v).rawBits = s.rawBits ∧
      (∀ l ∈ s.evaluated, n ∈ l.uses → ∀ m ∈ l.outs, m ≠ n → (s.drive n v).nets.get m = none) ∧
      ∃ again, (s.drive n v).lines = again ++ s.lines ∧ ((s.drive n v).evaluated ++ again).Perm s.evaluated ∧
        again.Sublist s.evaluated ∧ (s.drive n v).evaluated.Sublist s.evaluated ∧
        (∀ l ∈ again, ∀ m ∈ l.outs, m ≠ n → (s.drive n v).nets.get m = none) ∧
        (∀ m, m ≠ n → (∀ l ∈ again, m ∉ l.outs) → (s.drive n v).nets.get m = s.nets.get m) ∧
        (s.Settled →
          (∀ k ∈ (s.drive n v).evaluated, n ∉ k.uses ∧ ∀ l ∈ again, ∀ m ∈ l.outs, m ∉ k.uses) ∧
          ∀ l ∈ again, n ∈ l.uses ∨ n ∈ l.outs ∨ ∃ k ∈ again, ∃ m ∈ k.outs, m ∈ l.uses))

/-- For every settled state: run to its end, then one name driven with any value, then run to its end again. Where both
runs answer a next state, no line is left, every line of the netlist is evaluated, and each carries what its unit
computes from the present values of its inputs, the changed one among them (R331). The second run evaluates the lines
the change reaches (log entry 27, DEDUCED). [70_reset_and_hazards.md R331, 92_eei_decisions.md D15,
notes/assumptions/27.md] -/
def Obligations.NoEarlierInputAffectsTheEnd : Prop :=
  ∀ (s u t : State) (n : Name) (v : Value), s.Settled →
    Host.Core.run Sys2Proof.core s.lines.length s = .next u →
    Host.Core.run Sys2Proof.core (u.drive n v).lines.length (u.drive n v) = .next t →
    t.lines = [] ∧ t.evaluated.Perm (s.evaluated ++ s.lines) ∧ t.nets.get n = some v ∧
      ∀ l ∈ s.evaluated ++ s.lines, LineSettled t l
end

