-- ==== Sys2Proof/Laws/Bits.lean ====
section
/-! SUPPORT. What the words built position by position are: the lane-wise chips, the ripple-carry adder, the raw words. -/

namespace Sys2Proof.Machine

theorem getLsbD_mapBits (f : Nat → Bit) (n k : Nat) :
    (mapBits f n).getLsbD k = (decide (k < n) && f k) := by
  induction n with
  | zero => simp [mapBits]
  | succ n ih =>
    rw [mapBits, BitVec.getLsbD_cons]
    by_cases h : k = n
    · subst h; simp
    · rw [if_neg h, ih]
      have : (k < n + 1) = (k < n) := by simp; omega
      simp [this]

/-! The gates are the Boolean operations. -/

theorem gateAnd_eq (a b : Bit) : gateAnd a b = (a && b) := by cases a <;> cases b <;> rfl
theorem gateOr_eq (a b : Bit) : gateOr a b = (a || b) := by cases a <;> cases b <;> rfl
theorem gateNot_eq (a : Bit) : gateNot a = !a := by cases a <;> rfl
theorem gateNand_eq (a b : Bit) : gateNand a b = !(a && b) := by cases a <;> cases b <;> rfl
theorem gateXor_eq (a b : Bit) : gateXor a b = (a ^^ b) := by cases a <;> cases b <;> rfl

/-- The full adder: parity, and majority. -/
theorem fullAdder_eq (a b c : Bit) : fullAdder a b c = (a ^^ (b ^^ c), Bool.atLeastTwo a b c) := by
  cases a <;> cases b <;> cases c <;> rfl

/-- not16 is the bitwise complement. -/
theorem not16_eq (A : Word16) : not16 A = ~~~A := by
  ext k hk
  simp [not16, ← BitVec.getLsbD_eq_getElem, getLsbD_mapBits, gateNot_eq, hk]

/-- and16 is the bitwise AND. -/
theorem and16_eq (A B : Word16) : and16 A B = A &&& B := by
  ext k hk
  simp [and16, ← BitVec.getLsbD_eq_getElem, getLsbD_mapBits, gateAnd_eq, hk]

/-- The rippling carry is the carry of the sum. -/
theorem carryAt_eq (A B : Word16) (k : Nat) : carryAt A B k = BitVec.carry k A B false := by
  induction k with
  | zero => simp [carryAt]
  | succ k ih => rw [carryAt, fullAdder_eq, BitVec.carry_succ, ih]

/-- The ripple-carry adder computes the sum modulo 2^16. -/
theorem adder16_eq (A B : Word16) : adder16 A B = A + B := by
  ext k hk
  rw [← BitVec.getLsbD_eq_getElem, ← BitVec.getLsbD_eq_getElem, BitVec.getLsbD_add hk, adder16, getLsbD_mapBits,
    fullAdder_eq, carryAt_eq]
  simp [hk]

theorem inc16_eq (A : Word16) : inc16 A = A + 1#16 := adder16_eq A _

theorem mux16_eq (A B : Word16) (sel : Bit) : mux16 A B sel = if sel then B else A := by cases sel <;> rfl

/-- The alu as word operations (the pseudocode of R160). -/
theorem aluOut_eq (x y : Word16) (zx nx zy ny f no : Bit) :
    aluOut x y zx nx zy ny f no =
      let x1 := if zx then 0#16 else x
      let x2 := if nx then ~~~x1 else x1
      let y1 := if zy then 0#16 else y
      let y2 := if ny then ~~~y1 else y1
      let p := if f then x2 + y2 else x2 &&& y2
      if no then ~~~p else p := by
  simp only [aluOut, aluStages, zeroStage, complementStage, functionStage, mux16_eq, not16_eq, and16_eq, adder16_eq]

/-! Raw bytes. -/

theorem byteIsBit_iff (v : Byte) : byteIsBit v = true ↔ v = 0#8 ∨ v = 1#8 := by simp [byteIsBit]

theorem byteIsBit_ofBit (b : Bit) : byteIsBit (Byte.ofBit b) = true := by cases b <;> rfl

theorem byteBit_ofBit (b : Bit) : byteBit (Byte.ofBit b) = b := by cases b <;> rfl

theorem ofBit_byteBit {v : Byte} (h : byteIsBit v = true) : Byte.ofBit (byteBit v) = v := by
  rcases (byteIsBit_iff v).mp h with rfl | rfl <;> rfl

theorem rawAt_eq (v : RawWord) (k : Nat) : rawAt v k = v[15 - k]'(by omega) := by
  have h : 15 - k < 16 := by omega
  simp [rawAt, h]

/-- Sixteen legal bytes are the word whose elements they are. -/
theorem rawToWord_of_elems {v : RawWord} {w : Word16} (h : ∀ i : Fin 16, Byte.ofBit (Word16.elem w i) = v[i]) :
    rawToWord v = w := by
  ext k hk
  have e := h ⟨15 - k, by omega⟩
  simp only [Fin.getElem_fin, Word16.elem] at e
  rw [← BitVec.getLsbD_eq_getElem, rawToWord, getLsbD_mapBits, rawAt_eq, ← e, byteBit_ofBit]
  have hk' : 15 - (15 - k) = k := by omega
  simp [hk, hk']

theorem mem_illegalElems {v : RawWord} {i : Fin 16} {b : Byte} :
    (i, b) ∈ illegalElems v ↔ v[i] = b ∧ byteIsBit b = false := by
  simp only [illegalElems, List.mem_filterMap, List.mem_finRange, true_and]
  constructor
  · rintro ⟨j, hj⟩
    split at hj
    · cases hj
    · rename_i hb
      cases hj
      exact ⟨rfl, by simpa using hb⟩
  · rintro ⟨rfl, hb⟩
    refine ⟨i, if_neg ?_⟩
    rw [hb]
    exact Bool.false_ne_true

theorem illegalElems_eq_nil {v : RawWord} : illegalElems v = [] ↔ ∀ i : Fin 16, byteIsBit v[i] = true := by
  rw [List.eq_nil_iff_forall_not_mem]
  constructor
  · intro h i
    by_contra hb
    exact h (i, v[i]) (mem_illegalElems.mpr ⟨rfl, by simpa using hb⟩)
  · rintro h ⟨i, b⟩ hm
    obtain ⟨rfl, hb⟩ := mem_illegalElems.mp hm
    rw [h i] at hb
    exact Bool.noConfusion hb

end Sys2Proof.Machine
end

