-- ==== Sys2Proof/Laws/Decode.lean ====
section
/-! SUPPORT. The decoder's pieces undo the encoder's, and what a decoded line says of its instruction. -/

namespace Sys2Proof

@[simp] theorem asBit_src (a : BitSrc) : a.src.asBit = .ok a := by cases a <;> rfl

@[simp] theorem asWord_src (A : WordSrc) : A.src.asWord = .ok A := by cases A <;> rfl

@[simp] theorem asAluDest_names (d : AluDest) : asAluDest d.names = .ok d := by
  obtain ⟨o, f⟩ := d
  cases f <;> rfl

theorem src_of_asBit {t : Src} {a : BitSrc} (h : t.asBit = .ok a) : a.src = t := by
  cases t <;> simp [Src.asBit] at h <;> subst h <;> rfl

theorem src_of_asWord {t : Src} {A : WordSrc} (h : t.asWord = .ok A) : A.src = t := by
  cases t <;> simp [Src.asWord] at h <;> subst h <;> rfl

theorem names_of_asAluDest {ns : List Name} {d : AluDest} (h : asAluDest ns = .ok d) : d.names = ns := by
  unfold asAluDest at h
  split at h <;> simp at h <;> subst h <;> rfl

/-- The line of a six-bit control code decodes to the code's instruction. -/
theorem decode_codeLine {ctl : Byte} (h : ctl.toNat < 64) (d : AluDest) (x y : WordSrc) :
    decode (codeLine ctl d x y) = .ok (Instr.ofCode (ctl.setWidth 6) d x y) := by
  simp [decode, codeLine, h, decodeCode, bind, Except.bind, pure, Except.pure]

/-- Every instruction that a control code selects is an alu evaluation with the code's Bits tied to its control ports. -/
theorem parts_codeInstr (d : AluDest) (x y : WordSrc) (zx nx zy ny f no : Bit) :
    (codeInstr d x y zx nx zy ny f no).parts = codeParts d x y zx nx zy ny f no := by
  cases zx <;> cases nx <;> cases zy <;> cases ny <;> cases f <;> cases no <;> rfl

theorem ok_bind {α β : Type} {x : Except DecodeError α} {f : α → Except DecodeError β} {b : β}
    (h : (x >>= f) = .ok b) : ∃ a, x = .ok a ∧ f a = .ok b := by
  cases x with
  | error e => cases h
  | ok a => exact ⟨a, rfl, h⟩

/-- An instruction defines the output names of its line and uses the names that line's sources are wired to. -/
theorem encode_names (i : Instr) : i.dests = (encode i).outs ∧ i.uses = (encode i).uses := by
  cases i <;> exact ⟨rfl, rfl⟩

/-- A control code's line decodes to an instruction with the line's names. -/
theorem decodeCode_names {c : BitVec 6} {l : Line} {i : Instr} (h : decodeCode c l = .ok i) :
    i.dests = l.outs ∧ i.uses = l.uses := by
  obtain ⟨sel, outs, ins⟩ := l
  unfold decodeCode at h
  split at h
  · rename_i hins
    obtain ⟨d, hd, h⟩ := ok_bind h
    obtain ⟨x, hx, h⟩ := ok_bind h
    obtain ⟨y, hy, h⟩ := ok_bind h
    cases h
    cases hins
    obtain rfl := src_of_asWord hx
    obtain rfl := src_of_asWord hy
    obtain rfl := names_of_asAluDest hd
    have hp : (Instr.ofCode c d x y).parts = _ := parts_codeInstr ..
    simp only [Instr.dests, Instr.uses, Instr.ports, hp]
    exact ⟨rfl, rfl⟩
  · cases h

/-- A decoded line's instruction defines the line's output names and uses the names its sources are wired to. -/
theorem decode_names {l : Line} {i : Instr} (h : decode l = .ok i) : i.dests = l.outs ∧ i.uses = l.uses := by
  obtain ⟨sel, outs, ins⟩ := l
  cases sel with
  | pseudo p => exact decodeCode_names h
  | code ctl =>
    simp only [decode] at h
    split at h
    · exact decodeCode_names h
    · cases h
  | cell u =>
    cases u
    all_goals
      simp only [decode, decodeAlu, decodeMux16, decodeFullAdder, decodeHalfAdder, decodeBit1, decodeBit2, decodeWord1,
        decodeWord2] at h
      split at h
      · repeat
          obtain ⟨_, hq, h'⟩ := ok_bind h
          clear h
          rename' h' => h
          first
            | obtain rfl := src_of_asBit hq
            | obtain rfl := src_of_asWord hq
            | obtain rfl := names_of_asAluDest hq
          clear hq
        cases h
        exact ⟨rfl, rfl⟩
      · cases h

end Sys2Proof
end

