-- ==== Sys2Proof/Laws/Nets.lean ====
section
/-! SUPPORT. The map of names: read after write, its canonical form, and what setting a name keeps. -/

namespace Sys2Proof.Machine

theorem get_set (m : Nets) (n k : Name) (v : Value) :
    (m.set n v).get k = if n = k then some v else m.get k := by
  induction m with
  | nil => simp [Nets.set, Nets.get]
  | cons p m ih =>
    obtain ⟨j, w⟩ := p
    simp only [Nets.set]
    split
    · simp [Nets.get]
    · split
      · rename_i h1 h2; subst h2
        by_cases h : n = k <;> simp [Nets.get, h]
      · rename_i h1 h2
        by_cases h : j = k
        · subst h; simp [Nets.get, h2]
        · simp [Nets.get, h, ih]

theorem get_set_self (m : Nets) (n : Name) (v : Value) : (m.set n v).get n = some v := by simp [get_set]

theorem get_set_other {n k : Name} (m : Nets) (v : Value) (h : n ≠ k) : (m.set n v).get k = m.get k := by
  simp [get_set, h]

/-- A name that is not among those set reads as before. -/
theorem get_setAll_other {outs : List (Name × Value)} {k : Name} (m : Nets) (h : k ∉ outs.map Prod.fst) :
    (m.setAll outs).get k = m.get k := by
  induction outs generalizing m with
  | nil => rfl
  | cons p outs ih =>
    simp only [List.map_cons, List.mem_cons, not_or] at h
    rw [Nets.setAll, ih _ h.2, get_set_other _ _ (Ne.symm h.1)]

/-- Each of several distinct names set reads as its value. -/
theorem get_setAll_mem {outs : List (Name × Value)} {p : Name × Value} (m : Nets)
    (hd : (outs.map Prod.fst).Nodup) (hp : p ∈ outs) : (m.setAll outs).get p.1 = some p.2 := by
  induction outs generalizing m with
  | nil => simp at hp
  | cons q outs ih =>
    simp only [List.map_cons, List.nodup_cons] at hd
    rcases List.mem_cons.mp hp with rfl | hp
    · rw [Nets.setAll, get_setAll_other _ hd.1, get_set_self]
    · exact ih _ hd.2 hp

theorem wf_tail {p : Name × Value} {m : Nets} (h : Nets.wf (p :: m) = true) : Nets.wf m = true := by
  cases m with
  | nil => rfl
  | cons q m => simp only [Nets.wf, Bool.and_eq_true] at h; exact h.2

/-- Setting keeps a canonical tail canonical under a smaller head. -/
theorem wf_cons_set {j : Name} {w : Value} {m : Nets} {n : Name} {v : Value}
    (h : Nets.wf ((j, w) :: m) = true) (hj : j < n) (ih : Nets.wf (m.set n v) = true) :
    Nets.wf ((j, w) :: m.set n v) = true := by
  cases m with
  | nil => simp [Nets.set, Nets.wf, hj]
  | cons q m =>
    obtain ⟨k, u⟩ := q
    simp only [Nets.wf, Bool.and_eq_true, decide_eq_true_eq] at h
    simp only [Nets.set] at ih ⊢
    split at ih <;> rename_i h1
    · simp [h1, Nets.wf, hj] at ih ⊢
      exact ih
    · split at ih <;> rename_i h2
      · subst h2; simpa [Nets.wf, h.1] using ih
      · simpa [h1, h2, Nets.wf, h.1] using ih

/-- Setting a name keeps the canonical form. -/
theorem wf_set {m : Nets} (h : m.wf = true) (n : Name) (v : Value) : (m.set n v).wf = true := by
  induction m with
  | nil => rfl
  | cons p m ih =>
    obtain ⟨j, w⟩ := p
    have ih := ih (wf_tail h)
    by_cases h1 : n < j
    · simp [Nets.set, h1, Nets.wf, h]
    · by_cases h2 : n = j
      · subst h2
        simp only [Nets.set, lt_irrefl, if_false, if_true]
        cases m with
        | nil => rfl
        | cons q m => simpa [Nets.wf] using h
      · have hj : j < n := lt_of_le_of_ne (not_lt.mp h1) (Ne.symm h2)
        simpa [Nets.set, h1, h2] using wf_cons_set h hj ih

theorem wf_setAll {m : Nets} (h : m.wf = true) (outs : List (Name × Value)) : (m.setAll outs).wf = true := by
  induction outs generalizing m with
  | nil => exact h
  | cons p outs ih => exact ih (wf_set h p.1 p.2)

/-- What holds of every value of a map holds after a name is set to a value of which it holds. -/
theorem all_set {m : Nets} {P : Value → Bool} (h : m.all (fun p => P p.2) = true) {n : Name} {v : Value}
    (hv : P v = true) : (m.set n v).all (fun p => P p.2) = true := by
  induction m with
  | nil => simp [Nets.set, hv]
  | cons p m ih =>
    obtain ⟨j, w⟩ := p
    simp only [List.all_cons, Bool.and_eq_true] at h
    simp only [Nets.set]
    split
    · simp [hv, h.1, h.2]
    · split
      · simp [hv, h.2]
      · simp [h.1, ih h.2]

theorem all_setAll {m : Nets} {P : Value → Bool} (h : m.all (fun p => P p.2) = true) {outs : List (Name × Value)}
    (ho : ∀ p ∈ outs, P p.2 = true) : (m.setAll outs).all (fun p => P p.2) = true := by
  induction outs generalizing m with
  | nil => exact h
  | cons p outs ih =>
    exact ih (all_set h (ho p (by simp))) (fun q hq => ho q (by simp [hq]))

/-- A value a name carries is one of the map's. -/
theorem mem_of_get {m : Nets} {n : Name} {v : Value} (h : m.get n = some v) : (n, v) ∈ m := by
  induction m with
  | nil => simp [Nets.get] at h
  | cons p m ih =>
    obtain ⟨j, w⟩ := p
    by_cases hj : j = n
    · simp [Nets.get, hj] at h; simp [hj, h]
    · simp [Nets.get, hj] at h; exact List.mem_cons_of_mem _ (ih h)

/-- Every entry of a canonical tail lies above the head. -/
theorem wf_head_lt {j : Name} {w : Value} {m : Nets} (h : Nets.wf ((j, w) :: m) = true) {q : Name × Value} (hq : q ∈ m) :
    j < q.1 := by
  induction m generalizing j w with
  | nil => simp at hq
  | cons r m ih =>
    obtain ⟨k, u⟩ := r
    simp only [Nets.wf, Bool.and_eq_true, decide_eq_true_eq] at h
    rcases List.mem_cons.mp hq with rfl | hq
    · exact h.1
    · exact h.1.trans (ih h.2 hq)

theorem get_eq_none_of_lt {m : Nets} {n : Name} (h : ∀ q ∈ m, n < q.1) : m.get n = none := by
  induction m with
  | nil => rfl
  | cons p m ih =>
    obtain ⟨j, w⟩ := p
    have hj : j ≠ n := (h (j, w) (by simp)).ne'
    simp [Nets.get, hj, ih (fun q hq => h q (by simp [hq]))]

/-- Canonical maps that read alike are equal data. -/
theorem eq_of_get {m m' : Nets} (h : m.wf = true) (h' : m'.wf = true) (hg : ∀ n, m.get n = m'.get n) : m = m' := by
  induction m generalizing m' with
  | nil =>
    cases m' with
    | nil => rfl
    | cons q m' => have := hg q.1; simp [Nets.get] at this
  | cons p m ih =>
    obtain ⟨j, w⟩ := p
    cases m' with
    | nil => have := hg j; simp [Nets.get] at this
    | cons q m' =>
      obtain ⟨k, u⟩ := q
      have hk := hg k
      have hj := hg j
      have below : ∀ {a : Name} {x : Value} {l : Nets}, Nets.wf ((a, x) :: l) = true → ∀ n, n < a →
          Nets.get ((a, x) :: l) n = none := by
        intro a x l hl n hn
        refine get_eq_none_of_lt fun r hr => ?_
        rcases List.mem_cons.mp hr with rfl | hr
        · exact hn
        · exact hn.trans (wf_head_lt hl hr)
      have hjk : j = k := by
        rcases Nat.lt_trichotomy j k with hlt | heq | hlt
        · rw [below h' j hlt] at hj; simp [Nets.get] at hj
        · exact heq
        · rw [below h k hlt] at hk; simp [Nets.get] at hk
      subst hjk
      simp [Nets.get] at hj
      subst hj
      have : m = m' := by
        refine ih (wf_tail h) (wf_tail h') fun n => ?_
        by_cases hn : j = n
        · subst hn
          rw [get_eq_none_of_lt fun q hq => wf_head_lt h hq, get_eq_none_of_lt fun q hq => wf_head_lt h' hq]
        · have := hg n; simpa [Nets.get, hn] using this
      rw [this]

end Sys2Proof.Machine
end

