-- ==== Sys2Proof/Laws/Operands.lean ====
section
/-! SUPPORT. What a source presents is what the meanings read from it, and what the edge check sees. -/

namespace Sys2Proof.Machine

/-- A presented byte: the port is driven by a value of its width, raw only if RAW_BITS is on, and the edge check lists it
exactly when it is outside {0,1}. -/
theorem PresentsByte.value {s : State} {a : BitSrc} {v : Byte} (h : PresentsByte s a v) :
    ∃ u, srcValue s a.src = some u ∧ u.width = .bit ∧ (u.isRaw && !s.rawBits) = false ∧
      ∀ p, u.illegalBits p = if byteIsBit v then [] else [(⟨p, none⟩, v)] := by
  rcases h with ⟨b, rfl, rfl⟩ | ⟨n, rfl, ⟨b, hg, rfl⟩ | ⟨hr, hg⟩⟩
  · exact ⟨.bit b, rfl, rfl, rfl, fun p => by simp [Value.illegalBits, byteIsBit_ofBit]⟩
  · exact ⟨.bit b, hg, rfl, rfl, fun p => by simp [Value.illegalBits, byteIsBit_ofBit]⟩
  · exact ⟨.rawBit v, hg, rfl, by simp [hr], fun p => rfl⟩

/-- A presented legal Bit is the Bit read. -/
theorem PresentsBit.read {s : State} {a : BitSrc} {b : Bit} (h : PresentsBit s a b) : readBit s a = b := by
  rcases h with ⟨c, rfl, hc⟩ | ⟨n, rfl, ⟨c, hg, hc⟩ | ⟨_, hg⟩⟩
  · rw [readBit]; simpa [BitSrc.src, srcValue, byteBit_ofBit] using (congrArg byteBit hc).symm
  · rw [readBit]; simpa [BitSrc.src, srcValue, hg, byteBit_ofBit] using (congrArg byteBit hc).symm
  · rw [readBit]; simp [BitSrc.src, srcValue, hg, byteBit_ofBit]

/-- The illegal elements of sixteen presented bytes, by source index. -/
def illegalOf (v : Fin 16 → Byte) : List (Fin 16 × Byte) :=
  (List.finRange 16).filterMap fun i => if byteIsBit (v i) then none else some (i, v i)

theorem illegalOf_eq_nil {v : Fin 16 → Byte} : illegalOf v = [] ↔ ∀ i, byteIsBit (v i) = true := by
  simp only [illegalOf, List.filterMap_eq_nil_iff, List.mem_finRange, forall_true_left]
  refine forall_congr' fun i => ?_
  by_cases h : byteIsBit (v i) = true <;> simp [h]

theorem mem_illegalOf {v : Fin 16 → Byte} {i : Fin 16} {b : Byte} :
    (i, b) ∈ illegalOf v ↔ v i = b ∧ byteIsBit b = false := by
  simp only [illegalOf, List.mem_filterMap, List.mem_finRange, true_and]
  constructor
  · rintro ⟨j, hj⟩
    split at hj
    · cases hj
    · rename_i hb
      cases hj
      exact ⟨rfl, by simpa using hb⟩
  · rintro ⟨rfl, hb⟩
    exact ⟨i, if_neg (by rw [hb]; exact Bool.false_ne_true)⟩

/-- As `PresentsByte.value`, for the elements of a Word16 port. -/
theorem PresentsElems.value {s : State} {A : WordSrc} {v : Fin 16 → Byte} (h : PresentsElems s A v) :
    ∃ u, srcValue s A.src = some u ∧ u.width = .word ∧ (u.isRaw && !s.rawBits) = false ∧
      ∀ p, u.illegalBits p = (illegalOf v).map fun e => (⟨p, some e.1⟩, e.2) := by
  have legal : ∀ w : Word16, (∀ i, v i = Byte.ofBit (Word16.elem w i)) → illegalOf v = [] := fun w hw =>
    illegalOf_eq_nil.mpr fun i => by rw [hw i, byteIsBit_ofBit]
  rcases h with ⟨w, rfl, hw⟩ | ⟨n, rfl, ⟨w, hg, hw⟩ | ⟨hr, r, hg, hv⟩⟩
  · exact ⟨.word w, rfl, rfl, rfl, fun p => by simp [Value.illegalBits, legal w hw]⟩
  · exact ⟨.word w, hg, rfl, rfl, fun p => by simp [Value.illegalBits, legal w hw]⟩
  · refine ⟨.rawWord r, hg, rfl, by simp [hr], fun p => ?_⟩
    simp only [Value.illegalBits, illegalElems, illegalOf, hv]

/-- Two words with the same elements are equal. -/
theorem word_ext_elem {w w' : Word16} (h : ∀ i, Word16.elem w i = Word16.elem w' i) : w = w' := by
  ext k hk
  have e := h ⟨15 - k, by omega⟩
  have hk' : 15 - (15 - k) = k := by omega
  simpa only [Word16.elem, hk', BitVec.getLsbD_eq_getElem hk] using e

theorem ofBit_injective {b c : Bit} (h : Byte.ofBit b = Byte.ofBit c) : b = c := by
  have := congrArg byteBit h
  simpa [byteBit_ofBit] using this

/-- A presented Word16 is the word read. -/
theorem PresentsWord.read {s : State} {A : WordSrc} {w : Word16} (h : PresentsWord s A w) : readWord s A = w := by
  rcases h with ⟨u, rfl, hu⟩ | ⟨n, rfl, ⟨u, hg, hu⟩ | ⟨_, r, hg, hr⟩⟩
  · exact (word_ext_elem fun i => ofBit_injective (hu i)).symm
  · have : w = u := word_ext_elem fun i => ofBit_injective (hu i)
    simp [readWord, WordSrc.src, srcValue, hg, this]
  · simp [readWord, WordSrc.src, srcValue, hg, rawToWord_of_elems hr]

end Sys2Proof.Machine
end

