-- ==== Sys2Proof/Laws/State.lean ====
section
/-! SUPPORT. One lemma for each field of State after each of its updates. -/

namespace Sys2Proof.Machine

@[simp] theorem load_nets (s : State) (ls : List Line) : (s.load ls).nets = s.nets := rfl
@[simp] theorem load_lines (s : State) (ls : List Line) : (s.load ls).lines = ls := rfl
@[simp] theorem load_evaluated (s : State) (ls : List Line) : (s.load ls).evaluated = s.evaluated := rfl
@[simp] theorem load_rawBits (s : State) (ls : List Line) : (s.load ls).rawBits = s.rawBits := rfl
@[simp] theorem load_draws (s : State) (ls : List Line) : (s.load ls).draws = s.draws := rfl

@[simp] theorem commit_nets (s : State) (outs : List (Name × Value)) : (s.commit outs).nets = s.nets.setAll outs := rfl
@[simp] theorem commit_lines (s : State) (outs : List (Name × Value)) : (s.commit outs).lines = s.lines := rfl
@[simp] theorem commit_evaluated (s : State) (outs : List (Name × Value)) : (s.commit outs).evaluated = s.evaluated := rfl
@[simp] theorem commit_rawBits (s : State) (outs : List (Name × Value)) : (s.commit outs).rawBits = s.rawBits := rfl
@[simp] theorem commit_draws (s : State) (outs : List (Name × Value)) : (s.commit outs).draws = s.draws + 1 := rfl

@[simp] theorem placeLine_nets (s : State) (l : Line) : (s.placeLine l).nets = s.nets := rfl
@[simp] theorem placeLine_lines (s : State) (l : Line) : (s.placeLine l).lines = l :: s.lines := rfl
@[simp] theorem placeLine_evaluated (s : State) (l : Line) : (s.placeLine l).evaluated = s.evaluated := rfl
@[simp] theorem placeLine_rawBits (s : State) (l : Line) : (s.placeLine l).rawBits = s.rawBits := rfl
@[simp] theorem placeLine_draws (s : State) (l : Line) : (s.placeLine l).draws = s.draws := rfl

/-- What the fetch gives: the first line, and the state with that line moved to the evaluated ones. -/
theorem fetch_eq_some {s t : State} {l : Line} :
    s.fetch = some (l, t) ↔ ∃ ls, s.lines = l :: ls ∧ t = { s with lines := ls, evaluated := s.evaluated ++ [l] } := by
  unfold State.fetch
  cases s.lines with
  | nil => simp
  | cons l' ls =>
    simp only [Option.some.injEq, Prod.mk.injEq, List.cons.injEq]
    constructor
    · rintro ⟨rfl, rfl⟩; exact ⟨ls, ⟨rfl, rfl⟩, rfl⟩
    · rintro ⟨_, ⟨rfl, rfl⟩, rfl⟩; exact ⟨rfl, rfl⟩

/-- The fetch finds nothing exactly at the end of the run. -/
theorem fetch_eq_none {s : State} : s.fetch = none ↔ s.lines = [] := by
  unfold State.fetch
  cases s.lines <;> simp

/-- A step on a line that decodes is the evaluation of its instruction with the line taken off. -/
theorem step_of_decode {s : State} {l : Line} {ls : List Line} {i : Instr} (hl : s.lines = l :: ls)
    (hd : decode l = .ok i) : step s = exec i { s with lines := ls, evaluated := s.evaluated ++ [l] } := by
  simp [step, State.fetch, hl, hd]

/-- A step answers a next state only by evaluating the decoded next line. -/
theorem step_eq_next {s s' : State} :
    step s = .next s' ↔
      ∃ l ls i, s.lines = l :: ls ∧ decode l = .ok i ∧ exec i { s with lines := ls, evaluated := s.evaluated ++ [l] } = .next s' := by
  constructor
  · intro h
    cases hl : s.lines with
    | nil => simp [step, State.fetch, hl] at h
    | cons l ls =>
      cases hd : decode l with
      | error e => simp [step, State.fetch, hl, hd] at h
      | ok i => exact ⟨l, ls, i, rfl, hd, step_of_decode hl hd ▸ h⟩
  · rintro ⟨l, ls, i, hl, hd, he⟩
    rw [step_of_decode hl hd, he]

end Sys2Proof.Machine
end

