-- ==== Sys2Proof/Laws/Evaluate.lean ====
section
/-! SUPPORT. Everything one evaluation can do, said once: `evaluate` answers next, a DomainError or a refusal under
conditions on its ports and output names alone. -/

namespace Sys2Proof.Machine

/-- The port is driven by a value of its width, raw only if RAW_BITS is on. -/
def PortReady (s : State) (p : PortUse) : Prop :=
  ∃ v, srcValue s p.src = some v ∧ v.width = p.width ∧ (v.isRaw && !s.rawBits) = false

theorem PortReady.no_refusal {s : State} {p : PortUse} (h : PortReady s p) (u : Cell) (dests : List Name) :
    portRefusal s u dests p = none := by
  obtain ⟨v, hv, hw, hr⟩ := h
  simp [portRefusal, hv, hw, hr]

theorem portReady_of_no_refusal {s : State} {u : Cell} {dests : List Name} {p : PortUse}
    (h : portRefusal s u dests p = none) : PortReady s p := by
  unfold portRefusal at h
  cases hv : srcValue s p.src with
  | none =>
    rw [hv] at h
    cases hp : p.src with
    | bit b => simp [hp] at h
    | word w => simp [hp] at h
    | net n => simp only [hp] at h; split at h <;> cases h
  | some v =>
    rw [hv] at h
    by_cases hw : v.width = p.width
    · refine ⟨v, hv, hw, ?_⟩
      by_contra hr
      simp [hw, Bool.eq_true_of_not_eq_false hr] at h
    · simp [hw] at h

/-- Output names that are undriven and distinct are free. -/
theorem destsFree_iff {s : State} {ns : List Name} : destsFree s ns = true ↔ NewNames s ns := by
  simp [destsFree, NewNames]

/-- An evaluation has an outcome exactly when every port is ready and the output names are new. -/
theorem evaluationRefusal_eq_none {s : State} {u : Cell} {ports : List PortUse} {ns : List Name} :
    evaluationRefusal s u ports ns = none ↔ (∀ p ∈ ports, PortReady s p) ∧ NewNames s ns := by
  unfold evaluationRefusal
  cases h : ports.findSome? (portRefusal s u ns) with
  | some r =>
    simp only [reduceCtorEq, false_iff, not_and]
    obtain ⟨p, hp, hr⟩ := List.exists_of_findSome?_eq_some h
    intro hready
    rw [(hready p hp).no_refusal] at hr
    cases hr
  | none =>
    have hp : ∀ p ∈ ports, PortReady s p := fun p hp =>
      portReady_of_no_refusal (List.findSome?_eq_none_iff.mp h p hp)
    by_cases hd : destsFree s ns = true
    · simp only [hd, if_true, true_iff]; exact ⟨hp, destsFree_iff.mp hd⟩
    · simp only [hd, if_false, reduceCtorEq, false_iff]
      exact fun hc => hd (destsFree_iff.mpr hc.2)

/-- The info drawn is that of one of the illegal inputs. -/
theorem drawInfo_mem (k : Nat) (x : DomainInfo) (xs : List DomainInfo) : drawInfo k x xs ∈ x :: xs := by
  cases xs with
  | nil => simp [drawInfo]
  | cons y ys =>
    have h : Config.errorChoice k (x :: y :: ys) % (ys.length + 2) < (x :: y :: ys).length := by
      simpa using Nat.mod_lt (Config.errorChoice k (x :: y :: ys)) (Nat.succ_pos (ys.length + 1))
    rw [drawInfo, List.getElem?_eq_getElem h]
    exact List.getElem_mem h

/-- Ok: every port ready, the names new, no illegal input. -/
theorem evaluate_eq_next {u : Cell} {ports : List PortUse} {outs : List (Name × Value)} {s t : State} :
    evaluate u ports outs s = .next t ↔
      (∀ p ∈ ports, PortReady s p) ∧ NewNames s (outs.map Prod.fst) ∧ illegalInputs s u ports = [] ∧ t = s.commit outs := by
  unfold evaluate
  cases h : evaluationRefusal s u ports (outs.map Prod.fst) with
  | some r =>
    simp only [reduceCtorEq, false_iff]
    rintro ⟨hp, hn, -⟩
    rw [evaluationRefusal_eq_none.mpr ⟨hp, hn⟩] at h
    cases h
  | none =>
    obtain ⟨hp, hn⟩ := evaluationRefusal_eq_none.mp h
    cases hi : illegalInputs s u ports with
    | nil =>
      simp only [Host.Outcome.next.injEq, true_and]
      exact ⟨fun e => ⟨hp, hn, e.symm⟩, fun e => e.2.2.symm⟩
    | cons x xs => simp [raiseDomainError]

/-- DomainError: every port ready, the names new, and its info that of an illegal input. -/
theorem evaluate_eq_fault {u : Cell} {ports : List PortUse} {outs : List (Name × Value)} {s : State} {f : Fault}
    (h : evaluate u ports outs s = .fault f) :
    (∀ p ∈ ports, PortReady s p) ∧ NewNames s (outs.map Prod.fst) ∧
      ∃ info ∈ illegalInputs s u ports, f = .domainError info := by
  unfold evaluate at h
  cases hr : evaluationRefusal s u ports (outs.map Prod.fst) with
  | some r => simp [hr] at h
  | none =>
    obtain ⟨hp, hn⟩ := evaluationRefusal_eq_none.mp hr
    refine ⟨hp, hn, ?_⟩
    cases hi : illegalInputs s u ports with
    | nil => simp [hr, hi] at h
    | cons x xs =>
      simp only [hr, hi, raiseDomainError, Host.Outcome.fault.injEq] at h
      exact ⟨_, drawInfo_mem s.draws x xs, h.symm⟩

/-- An evaluation with an illegal input, otherwise ready, is a DomainError. -/
theorem evaluate_fails {u : Cell} {ports : List PortUse} {outs : List (Name × Value)} {s : State}
    (hp : ∀ p ∈ ports, PortReady s p) (hn : NewNames s (outs.map Prod.fst)) (hi : illegalInputs s u ports ≠ []) :
    FailsWith (evaluate u ports outs s) (· ∈ illegalInputs s u ports) := by
  have hr : evaluationRefusal s u ports (outs.map Prod.fst) = none := evaluationRefusal_eq_none.mpr ⟨hp, hn⟩
  cases h : illegalInputs s u ports with
  | nil => exact absurd h hi
  | cons x xs =>
    refine ⟨drawInfo s.draws x xs, ?_, drawInfo_mem s.draws x xs⟩
    simp [evaluate, hr, h, raiseDomainError]

/-- A ready, legal evaluation yields its outputs and changes nothing else. -/
theorem evaluate_yields {u : Cell} {ports : List PortUse} {outs : List (Name × Value)} {s : State}
    (hp : ∀ p ∈ ports, PortReady s p) (hn : NewNames s (outs.map Prod.fst)) (hi : illegalInputs s u ports = []) :
    Yields s (evaluate u ports outs s) outs :=
  ⟨s.commit outs, evaluate_eq_next.mpr ⟨hp, hn, hi, rfl⟩, fun _ hq => get_setAll_mem _ hn.1 hq,
    fun _ hk => get_setAll_other _ hk, rfl, rfl, rfl⟩

/-! Port by port. -/

theorem PresentsByte.ready {s : State} {a : BitSrc} {v : Byte} (h : PresentsByte s a v) (p : PortName) :
    PortReady s (bitPort p a) := by
  obtain ⟨u, hu, hw, hr, _⟩ := h.value
  exact ⟨u, hu, hw, hr⟩

theorem PresentsElems.ready {s : State} {A : WordSrc} {v : Fin 16 → Byte} (h : PresentsElems s A v) (p : PortName) :
    PortReady s (wordPort p A) := by
  obtain ⟨u, hu, hw, hr, _⟩ := h.value
  exact ⟨u, hu, hw, hr⟩

theorem illegalInputs_nil (s : State) (u : Cell) : illegalInputs s u [] = [] := rfl

theorem illegalInputs_cons (s : State) (u : Cell) (p : PortUse) (ps : List PortUse) :
    illegalInputs s u (p :: ps) = illegalInputs s u [p] ++ illegalInputs s u ps := by
  simp [illegalInputs]

theorem PresentsByte.illegal {s : State} {a : BitSrc} {v : Byte} (h : PresentsByte s a v) (u : Cell) (p : PortName) :
    illegalInputs s u [bitPort p a] = if byteIsBit v then [] else [⟨u, ⟨p, none⟩, v⟩] := by
  obtain ⟨w, hw, _, _, hi⟩ := h.value
  simp only [illegalInputs, bitPort, List.flatMap_cons, List.flatMap_nil, hw, hi, List.append_nil]
  split <;> rfl

theorem PresentsElems.illegal {s : State} {A : WordSrc} {v : Fin 16 → Byte} (h : PresentsElems s A v) (u : Cell)
    (p : PortName) :
    illegalInputs s u [wordPort p A] = (illegalOf v).map fun e => ⟨u, ⟨p, some e.1⟩, e.2⟩ := by
  obtain ⟨w, hw, _, _, hi⟩ := h.value
  simp only [illegalInputs, wordPort, List.flatMap_cons, List.flatMap_nil, hw, hi, List.append_nil, List.map_map]
  rfl

theorem PresentsBit.legal {s : State} {a : BitSrc} {b : Bit} (h : PresentsBit s a b) (u : Cell) (p : PortName) :
    illegalInputs s u [bitPort p a] = [] := by
  rw [PresentsByte.illegal h]; simp [byteIsBit_ofBit]

theorem PresentsWord.legal {s : State} {A : WordSrc} {w : Word16} (h : PresentsWord s A w) (u : Cell) (p : PortName) :
    illegalInputs s u [wordPort p A] = [] := by
  rw [PresentsElems.illegal h, illegalOf_eq_nil.mpr fun i => byteIsBit_ofBit _]; rfl

theorem PresentsBit.ready {s : State} {a : BitSrc} {b : Bit} (h : PresentsBit s a b) (p : PortName) :
    PortReady s (bitPort p a) := PresentsByte.ready h p

theorem PresentsWord.ready {s : State} {A : WordSrc} {w : Word16} (h : PresentsWord s A w) (p : PortName) :
    PortReady s (wordPort p A) := PresentsElems.ready h p

end Sys2Proof.Machine
end

