-- ==== Sys2Proof/Laws/Exec.lean ====
section
/-! SUPPORT. Every instruction is one evaluation of its unit through its ports, and what follows from that alone. -/

namespace Sys2Proof.Machine

/-- The inversion lemma of `exec`: it is `evaluate` on the instruction's own unit, ports and output names, and the values
it computes are legal, of its outputs' widths. -/
theorem exec_eq_evaluate (i : Instr) (s : State) :
    ∃ outs, exec i s = evaluate i.cell i.ports outs s ∧ outs.map Prod.fst = i.dests ∧
      outs.map (fun o => (o.1, o.2.width)) = i.defs ∧ ∀ o ∈ outs, o.2.isLegal = true ∧ o.2.isRaw = false := by
  have alu : ∀ (d : AluDest) (o : Word16), (aluOutputs d o).map Prod.fst = d.names ∧
      (aluOutputs d o).map (fun q => (q.1, q.2.width)) = d.names.zip Cell.alu.outputs ∧
      ∀ q ∈ aluOutputs d o, q.2.isLegal = true ∧ q.2.isRaw = false := by
    intro d o
    unfold aluOutputs AluDest.names
    cases d.flags <;> simp [Cell.outputs, Value.width, Value.isLegal, Value.isRaw]
  cases i
  all_goals
    refine ⟨_, rfl, ?_⟩
    first
      | exact alu _ _
      | simp [Instr.dests, Instr.defs, Instr.cell, Instr.parts, Cell.outputs, Value.width, Value.isLegal, Value.isRaw]

/-- When an instruction answers a next state. -/
theorem exec_eq_next {i : Instr} {s t : State} (h : exec i s = .next t) :
    ∃ outs, outs.map Prod.fst = i.dests ∧ outs.map (fun o => (o.1, o.2.width)) = i.defs ∧
      (∀ o ∈ outs, o.2.isLegal = true ∧ o.2.isRaw = false) ∧ (∀ p ∈ i.ports, PortReady s p) ∧
      NewNames s i.dests ∧ illegalInputs s i.cell i.ports = [] ∧ t = s.commit outs := by
  obtain ⟨outs, he, hd, hw, ho⟩ := exec_eq_evaluate i s
  obtain ⟨hp, hn, hi, rfl⟩ := evaluate_eq_next.mp (he ▸ h)
  exact ⟨outs, hd, hw, ho, hp, hd ▸ hn, hi, rfl⟩

end Sys2Proof.Machine
end

