-- ==== Sys2Proof/Laws/Interface.lean ====
section
/-! SUPPORT. The terms of Safety.lean tied to what `evaluate` checks: illegal inputs, driven ports, and the congruence
of an evaluation in the values its own ports present. -/

namespace Sys2Proof.Machine

/-- Outside {0,1} is above 1. -/
theorem one_lt_iff_not_bit (v : Byte) : 1#8 < v ↔ byteIsBit v = false := by revert v; decide

/-- The illegal inputs found at one Bit port. -/
theorem mem_illegalInputs_bit {s : State} {a : BitSrc} {v : Byte} (h : PresentsByte s a v) (u : Cell) (p : PortName)
    (info : DomainInfo) : info ∈ illegalInputs s u [bitPort p a] ↔ info.unit = u ∧ IllegalBit p v info := by
  rw [h.illegal, IllegalBit]
  obtain ⟨_, _, _⟩ := info
  cases hb : byteIsBit v <;> simp [hb, one_lt_iff_not_bit]

/-- The illegal inputs found at one Word16 port. -/
theorem mem_illegalInputs_word {s : State} {A : WordSrc} {v : Fin 16 → Byte} (h : PresentsElems s A v) (u : Cell)
    (p : PortName) (info : DomainInfo) :
    info ∈ illegalInputs s u [wordPort p A] ↔ info.unit = u ∧ IllegalElem p v info := by
  rw [h.illegal, IllegalElem]
  obtain ⟨_, _, _⟩ := info
  simp only [List.mem_map, Prod.exists, mem_illegalOf, one_lt_iff_not_bit]
  constructor
  · rintro ⟨i, b, ⟨rfl, hb⟩, h⟩; cases h; exact ⟨rfl, i, rfl, rfl, hb⟩
  · rintro ⟨rfl, i, h1, h2, h3⟩; refine ⟨i, v i, ⟨rfl, h3⟩, ?_⟩; cases h1; cases h2; rfl

/-- The edge check finds exactly the instruction's illegal inputs. -/
theorem mem_illegalInputs_iff (s : State) (i : Instr) (info : DomainInfo) :
    info ∈ illegalInputs s i.cell i.ports ↔ IllegalInput s i info := by
  unfold illegalInputs IllegalInput
  simp only [List.mem_flatMap]
  constructor
  · rintro ⟨p, hp, h⟩
    cases hv : srcValue s p.src with
    | none => simp [hv] at h
    | some v =>
      simp only [hv, List.mem_map, Prod.exists] at h
      obtain ⟨pr, b, hm, rfl⟩ := h
      have hsrc : ∃ n, p.src = .net n ∧ s.nets.get n = some v := by
        cases hs : p.src <;> rw [hs] at hv <;> simp [srcValue] at hv
        · subst hv; simp [Value.illegalBits] at hm
        · subst hv; simp [Value.illegalBits] at hm
        · exact ⟨_, rfl, hv⟩
      obtain ⟨n, hn, hg⟩ := hsrc
      cases v with
      | bit b => simp [Value.illegalBits] at hm
      | word b => simp [Value.illegalBits] at hm
      | rawBit b' =>
        simp [Value.illegalBits] at hm
        obtain ⟨hb, rfl, rfl⟩ := hm
        exact ⟨rfl, (one_lt_iff_not_bit _).mpr hb, p, hp, rfl, n, hn, Or.inl ⟨hg, rfl⟩⟩
      | rawWord r =>
        simp [Value.illegalBits, illegalElems] at hm
        obtain ⟨k, ha, rfl, rfl⟩ := hm
        exact ⟨rfl, (one_lt_iff_not_bit _).mpr ha, p, hp, rfl, n, hn, Or.inr ⟨r, k, hg, rfl, rfl⟩⟩
  · rintro ⟨h1, h2, p, hp, h3, n, h4, h5⟩
    obtain ⟨u, ⟨po, el⟩, v⟩ := info
    refine ⟨p, hp, ?_⟩
    rcases h5 with ⟨hg, he⟩ | ⟨r, k, hg, he, hr⟩
    · simp only [h4, srcValue, hg]; simp [Value.illegalBits, (one_lt_iff_not_bit _).mp h2]; simp_all
    · simp only [h4, srcValue, hg]; simp [Value.illegalBits, illegalElems]
      simp at h3 he hr h2
      subst h3 he hr
      exact ⟨k, (one_lt_iff_not_bit _).mp h2, h1.symm, ⟨rfl, rfl⟩, rfl⟩

/-- A port that `evaluate` accepts is a driven port. -/
theorem portReady_iff_portDriven (s : State) (p : PortUse) : PortReady s p ↔ PortDriven s p := by
  unfold PortReady PortDriven
  cases p.src <;> simp [srcValue, Value.width, Value.isRaw]
  all_goals exact eq_comm

/-- The names an instruction uses are those its ports are wired to. -/
theorem mem_uses_iff (i : Instr) (n : Name) : n ∈ i.uses ↔ ∃ p ∈ i.ports, p.src = .net n := by
  simp only [Instr.uses, List.mem_filterMap]
  constructor
  · rintro ⟨p, hp, h⟩; refine ⟨p, hp, ?_⟩; split at h <;> simp_all
  · rintro ⟨p, hp, h⟩; exact ⟨p, hp, by rw [h]⟩

/-- A control code's instruction is the alu with its control ports tied. -/
theorem exec_codeInstr (d : AluDest) (x y : WordSrc) (zx nx zy ny f no : Bit) (s : State) :
    exec (codeInstr d x y zx nx zy ny f no) s =
      execAlu d x y (.lit zx) (.lit nx) (.lit zy) (.lit ny) (.lit f) (.lit no) s := by
  cases zx <;> cases nx <;> cases zy <;> cases ny <;> cases f <;> cases no <;> rfl

/-- In states that present the same to an instruction, each of its ports carries the same value. -/
theorem SameInputs.srcValue_eq {s t : State} {i : Instr} (h : SameInputs s t i) {p : PortUse} (hp : p ∈ i.ports) :
    srcValue s p.src = srcValue t p.src := by
  cases hs : p.src with
  | bit b => rfl
  | word w => rfl
  | net n => exact h.2 n ((mem_uses_iff ..).mpr ⟨p, hp, hs⟩)

theorem SameInputs.illegalInputs_eq {s t : State} {i : Instr} (h : SameInputs s t i) :
    illegalInputs s i.cell i.ports = illegalInputs t i.cell i.ports := by
  unfold illegalInputs
  apply List.flatMap_congr
  intro p hp; rw [h.srcValue_eq hp]

theorem SameInputs.portReady_iff {s t : State} {i : Instr} (h : SameInputs s t i) {p : PortUse} (hp : p ∈ i.ports) :
    PortReady s p ↔ PortReady t p := by
  unfold PortReady; rw [h.srcValue_eq hp, h.1]

theorem SameInputs.readBit_eq {s t : State} {i : Instr} (h : SameInputs s t i) {p : PortName} {a : BitSrc}
    (hp : bitPort p a ∈ i.ports) : readBit s a = readBit t a := by
  unfold readBit; rw [show srcValue s a.src = srcValue t a.src from h.srcValue_eq hp]

theorem SameInputs.readWord_eq {s t : State} {i : Instr} (h : SameInputs s t i) {p : PortName} {A : WordSrc}
    (hp : wordPort p A ∈ i.ports) : readWord s A = readWord t A := by
  unfold readWord; rw [show srcValue s A.src = srcValue t A.src from h.srcValue_eq hp]

theorem aluOutputs_fst (d : AluDest) (o : Word16) : (aluOutputs d o).map Prod.fst = d.names := by
  unfold aluOutputs AluDest.names; cases d.flags <;> rfl

/-- The congruence of an evaluation: in states that present the same to an instruction it is `evaluate` on the same
outputs. -/
theorem exec_congr {i : Instr} {s t : State} (h : SameInputs s t i) :
    ∃ outs, exec i s = evaluate i.cell i.ports outs s ∧ exec i t = evaluate i.cell i.ports outs t ∧
      outs.map Prod.fst = i.dests := by
  have hb : ∀ p (a : BitSrc), bitPort p a ∈ i.ports → readBit s a = readBit t a := fun _ _ hm => h.readBit_eq hm
  have hw : ∀ p (A : WordSrc), wordPort p A ∈ i.ports → readWord s A = readWord t A := fun _ _ hm => h.readWord_eq hm
  simp only [Instr.ports] at hb hw
  cases i with
  | and o a b =>
    rw [exec, exec, execAnd, execAnd, hb .a a (by simp [Instr.parts]), hb .b b (by simp [Instr.parts])]
    exact ⟨_, rfl, rfl, rfl⟩
  | or o a b =>
    rw [exec, exec, execOr, execOr, hb .a a (by simp [Instr.parts]), hb .b b (by simp [Instr.parts])]
    exact ⟨_, rfl, rfl, rfl⟩
  | not o a =>
    rw [exec, exec, execNot, execNot, hb .a a (by simp [Instr.parts])]
    exact ⟨_, rfl, rfl, rfl⟩
  | nand o a b =>
    rw [exec, exec, execNand, execNand, hb .a a (by simp [Instr.parts]), hb .b b (by simp [Instr.parts])]
    exact ⟨_, rfl, rfl, rfl⟩
  | xor o a b =>
    rw [exec, exec, execXor, execXor, hb .a a (by simp [Instr.parts]), hb .b b (by simp [Instr.parts])]
    exact ⟨_, rfl, rfl, rfl⟩
  | halfAdder o k a b =>
    rw [exec, exec, execHalfAdder, execHalfAdder, hb .a a (by simp [Instr.parts]), hb .b b (by simp [Instr.parts])]
    exact ⟨_, rfl, rfl, rfl⟩
  | fullAdder o k a b c =>
    rw [exec, exec, execFullAdder, execFullAdder, hb .a a (by simp [Instr.parts]), hb .b b (by simp [Instr.parts]), hb .c c (by simp [Instr.parts])]
    exact ⟨_, rfl, rfl, rfl⟩
  | adder16 o A B =>
    rw [exec, exec, execAdder16, execAdder16, hw .A A (by simp [Instr.parts]), hw .B B (by simp [Instr.parts])]
    exact ⟨_, rfl, rfl, rfl⟩
  | inc16 o A =>
    rw [exec, exec, execInc16, execInc16, hw .A A (by simp [Instr.parts])]
    exact ⟨_, rfl, rfl, rfl⟩
  | mux16 o A B sel =>
    rw [exec, exec, execMux16, execMux16, hw .A A (by simp [Instr.parts]), hw .B B (by simp [Instr.parts]), hb .sel sel (by simp [Instr.parts])]
    exact ⟨_, rfl, rfl, rfl⟩
  | not16 o A =>
    rw [exec, exec, execNot16, execNot16, hw .A A (by simp [Instr.parts])]
    exact ⟨_, rfl, rfl, rfl⟩
  | and16 o A B =>
    rw [exec, exec, execAnd16, execAnd16, hw .A A (by simp [Instr.parts]), hw .B B (by simp [Instr.parts])]
    exact ⟨_, rfl, rfl, rfl⟩
  | alu d x y zx nx zy ny f no =>
    rw [exec, exec, execAlu, execAlu, hw .x x (by simp [Instr.parts, aluPorts]),
      hw .y y (by simp [Instr.parts, aluPorts]), hb .zx zx (by simp [Instr.parts, aluPorts]),
      hb .nx nx (by simp [Instr.parts, aluPorts]), hb .zy zy (by simp [Instr.parts, aluPorts]),
      hb .ny ny (by simp [Instr.parts, aluPorts]), hb .f f (by simp [Instr.parts, aluPorts]),
      hb .no no (by simp [Instr.parts, aluPorts])]
    exact ⟨_, rfl, rfl, aluOutputs_fst _ _⟩
  | _ d x y =>
    refine ⟨_, rfl, ?_⟩
    rw [hw .x x (List.mem_cons_self ..), hw .y y (List.mem_cons_of_mem _ (List.mem_cons_self ..))]
    exact ⟨rfl, aluOutputs_fst _ _⟩

end Sys2Proof.Machine
end

