-- ==== Sys2Proof/Laws/Drive.lean ====
section
/-! SUPPORT. What a change of an input does: names undriven, the evaluated lines it reaches and those it does not, and the
fields of a state after a release and a drive. -/

namespace Sys2Proof.Machine

/-! The map of names with some undriven. -/

theorem get_eraseAll (m : Nets) (ns : List Name) (k : Name) :
    (m.eraseAll ns).get k = if k ∈ ns then none else m.get k := by
  induction m with
  | nil => simp [Nets.eraseAll, Nets.get]
  | cons p m ih =>
    obtain ⟨j, v⟩ := p
    by_cases hj : j ∈ ns
    · have e : Nets.eraseAll ((j, v) :: m) ns = Nets.eraseAll m ns := by simp [Nets.eraseAll, hj]
      rw [e, ih]
      by_cases hk : k ∈ ns
      · simp [hk]
      · have : j ≠ k := fun h => hk (h ▸ hj)
        simp [hk, Nets.get, this]
    · have e : Nets.eraseAll ((j, v) :: m) ns = (j, v) :: Nets.eraseAll m ns := by simp [Nets.eraseAll, hj]
      rw [e]
      by_cases hjk : j = k
      · subst hjk; simp [Nets.get, hj]
      · simp [Nets.get, hjk, ih]

theorem wf_cons_of_lt {j : Name} {w : Value} {m : Nets} (h : m.wf = true) (hl : ∀ q ∈ m, j < q.1) :
    Nets.wf ((j, w) :: m) = true := by
  cases m with
  | nil => rfl
  | cons q m => simp [Nets.wf, h, hl q (by simp)]

theorem wf_eraseAll {m : Nets} (h : m.wf = true) (ns : List Name) : (m.eraseAll ns).wf = true := by
  induction m with
  | nil => rfl
  | cons p m ih =>
    obtain ⟨j, v⟩ := p
    have ih := ih (wf_tail h)
    by_cases hj : j ∈ ns
    · simpa [Nets.eraseAll, hj] using ih
    · have e : Nets.eraseAll ((j, v) :: m) ns = (j, v) :: Nets.eraseAll m ns := by simp [Nets.eraseAll, hj]
      rw [e]
      exact wf_cons_of_lt ih fun q hq => wf_head_lt h (List.mem_of_mem_filter hq)

theorem all_eraseAll {m : Nets} {P : Name × Value → Bool} (h : m.all P = true) (ns : List Name) :
    (m.eraseAll ns).all P = true :=
  List.all_eq_true.mpr fun q hq => List.all_eq_true.mp h q (List.mem_of_mem_filter hq)

/-! The evaluated lines that a change reaches. -/

theorem touches_eq_false {ns : List Name} {l : Line} :
    touches ns l = false ↔ ∀ n ∈ ns, n ∉ l.uses ∧ n ∉ l.outs := by
  simp only [touches, Bool.or_eq_false_iff, List.any_eq_false, List.contains_iff_mem]
  exact ⟨fun h n hn => ⟨fun hu => h.1 n hu hn, fun ho => h.2 n ho hn⟩,
    fun h => ⟨fun n hu hn => (h n hn).1 hu, fun n ho hn => (h n hn).2 ho⟩⟩

/-- No evaluated line is lost and none is added. -/
theorem splitStale_perm (changed : List Name) (ls : List Line) :
    ((splitStale changed ls).1 ++ (splitStale changed ls).2).Perm ls := by
  induction ls generalizing changed with
  | nil => exact List.Perm.refl _
  | cons l ls ih =>
    unfold splitStale
    split
    · exact List.perm_middle.trans ((ih _).cons l)
    · exact (ih _).cons l

/-- Both parts keep the order of the lines. -/
theorem splitStale_sublist (changed : List Name) (ls : List Line) :
    (splitStale changed ls).1.Sublist ls ∧ (splitStale changed ls).2.Sublist ls := by
  induction ls generalizing changed with
  | nil => exact ⟨List.Sublist.refl _, List.Sublist.refl _⟩
  | cons l ls ih =>
    unfold splitStale
    split
    · exact ⟨(ih _).1.cons l, (ih _).2.cons_cons l⟩
    · exact ⟨(ih _).1.cons_cons l, (ih _).2.cons l⟩

/-- A line that touches a changed name is reached. -/
theorem mem_stale_of_touches {changed : List Name} {ls : List Line} {l : Line} (hl : l ∈ ls)
    (ht : touches changed l = true) : l ∈ (splitStale changed ls).2 := by
  induction ls generalizing changed with
  | nil => cases hl
  | cons k ls ih =>
    have grow : ∀ ns, touches (changed ++ ns) l = true := fun ns => by
      by_contra hf
      rw [Bool.not_eq_true, touches_eq_false] at hf
      rw [touches_eq_false.mpr fun n hn => hf n (by simp [hn])] at ht
      cases ht
    unfold splitStale
    rcases List.mem_cons.mp hl with rfl | hl
    · simp [ht]
    · split
      · exact List.mem_cons_of_mem _ (ih hl (grow _))
      · exact ih hl ht

/-- A line that is not reached has no changed name and no output of a reached line among its own. -/
theorem kept_disjoint {changed : List Name} {ls : List Line}
    (hp : ls.Pairwise fun l k => ∀ n ∈ k.outs, n ∉ l.outs ∧ n ∉ l.uses) {k : Line} (hk : k ∈ (splitStale changed ls).1)
    {n : Name} (hn : n ∈ changed ++ (splitStale changed ls).2.flatMap fun l => l.outs) : n ∉ k.uses ∧ n ∉ k.outs := by
  induction ls generalizing changed with
  | nil => cases hk
  | cons l ls ih =>
    obtain ⟨hl, hp⟩ := List.pairwise_cons.mp hp
    unfold splitStale at hk hn
    by_cases ht : touches changed l = true
    · simp only [ht, if_true, List.flatMap_cons] at hk hn
      exact ih hp hk (by simpa [List.append_assoc] using hn)
    · rw [Bool.not_eq_true] at ht
      simp only [ht, Bool.false_eq_true, if_false] at hk hn
      rcases List.mem_cons.mp hk with rfl | hk
      · rcases List.mem_append.mp hn with hn | hn
        · exact touches_eq_false.mp ht n hn
        · obtain ⟨j, hj, hjn⟩ := List.mem_flatMap.mp hn
          have := hl j ((splitStale_sublist changed ls).2.subset hj) n hjn
          exact ⟨this.2, this.1⟩
      · exact ih hp hk hn

/-! The fields of State after a release and a drive. -/

@[simp] theorem release_rawBits (s : State) (n : Name) : (s.release n).rawBits = s.rawBits := rfl
@[simp] theorem release_draws (s : State) (n : Name) : (s.release n).draws = s.draws := rfl
@[simp] theorem release_evaluated (s : State) (n : Name) :
    (s.release n).evaluated = (splitStale [n] s.evaluated).1 := rfl
@[simp] theorem release_lines (s : State) (n : Name) :
    (s.release n).lines = (splitStale [n] s.evaluated).2 ++ s.lines := rfl
@[simp] theorem release_nets (s : State) (n : Name) :
    (s.release n).nets = s.nets.eraseAll (n :: (splitStale [n] s.evaluated).2.flatMap fun l => l.outs) := rfl

theorem drive_of_eq {s : State} {n : Name} {v : Value} (h : s.nets.get n = some v) : s.drive n v = s := by
  simp [State.drive, h]

theorem drive_of_ne {s : State} {n : Name} {v : Value} (h : s.nets.get n ≠ some v) :
    s.drive n v = { s.release n with nets := (s.release n).nets.set n v } := by
  simp [State.drive, h]

@[simp] theorem drive_rawBits (s : State) (n : Name) (v : Value) : (s.drive n v).rawBits = s.rawBits := by
  unfold State.drive; split <;> rfl
@[simp] theorem drive_draws (s : State) (n : Name) (v : Value) : (s.drive n v).draws = s.draws := by
  unfold State.drive; split <;> rfl

/-- A name just driven carries its value. -/
theorem get_drive_self (s : State) (n : Name) (v : Value) : (s.drive n v).nets.get n = some v := by
  unfold State.drive
  split
  · assumption
  · exact get_set_self ..

/-- Releasing and driving keep the canonical form. -/
theorem wf_release {s : State} (h : s.nets.wf = true) (n : Name) : (s.release n).nets.wf = true := wf_eraseAll h _

theorem wf_drive {s : State} (h : s.nets.wf = true) (n : Name) (v : Value) : (s.drive n v).nets.wf = true := by
  unfold State.drive
  split
  · exact h
  · exact wf_set (wf_release h n) n v

end Sys2Proof.Machine
end

