-- ==== Sys2Proof/Laws/PerInstr.lean ====
section
/-! SUPPORT. Statements about every instruction as syntax, one lemma for each constructor: decoding its encoding, and its
ports against those of its unit. -/

namespace Sys2Proof.Laws

/-- Decoding the encoded line gives the instruction back. -/
def RoundTrip.Statement (i : Instr) : Prop := decode (encode i) = .ok i

/-- The instruction wires the input ports that R70 lists for its unit, in order, and names each output port (the alu may
leave zr and ng without names, R81). -/
def UnitPorts.Statement (i : Instr) : Prop :=
  (i.ports.map fun p => (p.port, p.width)) = i.cell.inputs ∧
    (i.dests.length = i.cell.outputs.length ∨ (i.cell = .alu ∧ i.dests.length = 1))

theorem unitPorts_alu {i : Instr} {d : AluDest} (hc : i.cell = .alu)
    (hp : (i.ports.map fun p => (p.port, p.width)) = Cell.alu.inputs) (hd : i.dests = d.names) :
    UnitPorts.Statement i := by
  refine ⟨by rw [hc, hp], ?_⟩
  rw [hc, hd]
  obtain ⟨o, f⟩ := d
  cases f with
  | none => exact Or.inr ⟨rfl, rfl⟩
  | some zn => exact Or.inl rfl

theorem RoundTrip.and (o : Name) (a b : BitSrc) : RoundTrip.Statement (.and o a b) := by
  simp [RoundTrip.Statement, encode, decode, decodeBit2, bind, Except.bind, pure, Except.pure]

theorem RoundTrip.or (o : Name) (a b : BitSrc) : RoundTrip.Statement (.or o a b) := by
  simp [RoundTrip.Statement, encode, decode, decodeBit2, bind, Except.bind, pure, Except.pure]

theorem RoundTrip.not (o : Name) (a : BitSrc) : RoundTrip.Statement (.not o a) := by
  simp [RoundTrip.Statement, encode, decode, decodeBit1, bind, Except.bind, pure, Except.pure]

theorem RoundTrip.nand (o : Name) (a b : BitSrc) : RoundTrip.Statement (.nand o a b) := by
  simp [RoundTrip.Statement, encode, decode, decodeBit2, bind, Except.bind, pure, Except.pure]

theorem RoundTrip.xor (o : Name) (a b : BitSrc) : RoundTrip.Statement (.xor o a b) := by
  simp [RoundTrip.Statement, encode, decode, decodeBit2, bind, Except.bind, pure, Except.pure]

theorem RoundTrip.halfAdder (s k : Name) (a b : BitSrc) : RoundTrip.Statement (.halfAdder s k a b) := by
  simp [RoundTrip.Statement, encode, decode, decodeHalfAdder, bind, Except.bind, pure, Except.pure]

theorem RoundTrip.fullAdder (s k : Name) (a b c : BitSrc) : RoundTrip.Statement (.fullAdder s k a b c) := by
  simp [RoundTrip.Statement, encode, decode, decodeFullAdder, bind, Except.bind, pure, Except.pure]

theorem RoundTrip.adder16 (o : Name) (A B : WordSrc) : RoundTrip.Statement (.adder16 o A B) := by
  simp [RoundTrip.Statement, encode, decode, decodeWord2, bind, Except.bind, pure, Except.pure]

theorem RoundTrip.inc16 (o : Name) (A : WordSrc) : RoundTrip.Statement (.inc16 o A) := by
  simp [RoundTrip.Statement, encode, decode, decodeWord1, bind, Except.bind, pure, Except.pure]

theorem RoundTrip.mux16 (o : Name) (A B : WordSrc) (sel : BitSrc) : RoundTrip.Statement (.mux16 o A B sel) := by
  simp [RoundTrip.Statement, encode, decode, decodeMux16, bind, Except.bind, pure, Except.pure]

theorem RoundTrip.not16 (o : Name) (A : WordSrc) : RoundTrip.Statement (.not16 o A) := by
  simp [RoundTrip.Statement, encode, decode, decodeWord1, bind, Except.bind, pure, Except.pure]

theorem RoundTrip.and16 (o : Name) (A B : WordSrc) : RoundTrip.Statement (.and16 o A B) := by
  simp [RoundTrip.Statement, encode, decode, decodeWord2, bind, Except.bind, pure, Except.pure]

theorem RoundTrip.alu (d : AluDest) (x y : WordSrc) (zx nx zy ny f no : BitSrc) : RoundTrip.Statement (.alu d x y zx nx zy ny f no) := by
  simp [RoundTrip.Statement, encode, decode, decodeAlu, bind, Except.bind, pure, Except.pure]

theorem RoundTrip.alu000000 (d : AluDest) (x y : WordSrc) : RoundTrip.Statement (.alu000000 d x y) :=
  decode_codeLine (by decide) d x y

theorem RoundTrip.alu000001 (d : AluDest) (x y : WordSrc) : RoundTrip.Statement (.alu000001 d x y) :=
  decode_codeLine (by decide) d x y

theorem RoundTrip.alu000010 (d : AluDest) (x y : WordSrc) : RoundTrip.Statement (.alu000010 d x y) :=
  decode_codeLine (by decide) d x y

theorem RoundTrip.alu000011 (d : AluDest) (x y : WordSrc) : RoundTrip.Statement (.alu000011 d x y) :=
  decode_codeLine (by decide) d x y

theorem RoundTrip.alu000100 (d : AluDest) (x y : WordSrc) : RoundTrip.Statement (.alu000100 d x y) :=
  decode_codeLine (by decide) d x y

theorem RoundTrip.alu000101 (d : AluDest) (x y : WordSrc) : RoundTrip.Statement (.alu000101 d x y) :=
  decode_codeLine (by decide) d x y

theorem RoundTrip.alu000110 (d : AluDest) (x y : WordSrc) : RoundTrip.Statement (.alu000110 d x y) :=
  decode_codeLine (by decide) d x y

theorem RoundTrip.alu000111 (d : AluDest) (x y : WordSrc) : RoundTrip.Statement (.alu000111 d x y) :=
  decode_codeLine (by decide) d x y

theorem RoundTrip.alu001000 (d : AluDest) (x y : WordSrc) : RoundTrip.Statement (.alu001000 d x y) :=
  decode_codeLine (by decide) d x y

theorem RoundTrip.alu001001 (d : AluDest) (x y : WordSrc) : RoundTrip.Statement (.alu001001 d x y) :=
  decode_codeLine (by decide) d x y

theorem RoundTrip.alu001010 (d : AluDest) (x y : WordSrc) : RoundTrip.Statement (.alu001010 d x y) :=
  decode_codeLine (by decide) d x y

theorem RoundTrip.alu001011 (d : AluDest) (x y : WordSrc) : RoundTrip.Statement (.alu001011 d x y) :=
  decode_codeLine (by decide) d x y

theorem RoundTrip.alu001100 (d : AluDest) (x y : WordSrc) : RoundTrip.Statement (.alu001100 d x y) :=
  decode_codeLine (by decide) d x y

theorem RoundTrip.alu001101 (d : AluDest) (x y : WordSrc) : RoundTrip.Statement (.alu001101 d x y) :=
  decode_codeLine (by decide) d x y

theorem RoundTrip.alu001110 (d : AluDest) (x y : WordSrc) : RoundTrip.Statement (.alu001110 d x y) :=
  decode_codeLine (by decide) d x y

theorem RoundTrip.alu001111 (d : AluDest) (x y : WordSrc) : RoundTrip.Statement (.alu001111 d x y) :=
  decode_codeLine (by decide) d x y

theorem RoundTrip.alu010000 (d : AluDest) (x y : WordSrc) : RoundTrip.Statement (.alu010000 d x y) :=
  decode_codeLine (by decide) d x y

theorem RoundTrip.alu010001 (d : AluDest) (x y : WordSrc) : RoundTrip.Statement (.alu010001 d x y) :=
  decode_codeLine (by decide) d x y

theorem RoundTrip.alu010010 (d : AluDest) (x y : WordSrc) : RoundTrip.Statement (.alu010010 d x y) :=
  decode_codeLine (by decide) d x y

theorem RoundTrip.alu010011 (d : AluDest) (x y : WordSrc) : RoundTrip.Statement (.alu010011 d x y) :=
  decode_codeLine (by decide) d x y

theorem RoundTrip.alu010100 (d : AluDest) (x y : WordSrc) : RoundTrip.Statement (.alu010100 d x y) :=
  decode_codeLine (by decide) d x y

theorem RoundTrip.alu010101 (d : AluDest) (x y : WordSrc) : RoundTrip.Statement (.alu010101 d x y) :=
  decode_codeLine (by decide) d x y

theorem RoundTrip.alu010110 (d : AluDest) (x y : WordSrc) : RoundTrip.Statement (.alu010110 d x y) :=
  decode_codeLine (by decide) d x y

theorem RoundTrip.alu010111 (d : AluDest) (x y : WordSrc) : RoundTrip.Statement (.alu010111 d x y) :=
  decode_codeLine (by decide) d x y

theorem RoundTrip.alu011000 (d : AluDest) (x y : WordSrc) : RoundTrip.Statement (.alu011000 d x y) :=
  decode_codeLine (by decide) d x y

theorem RoundTrip.alu011001 (d : AluDest) (x y : WordSrc) : RoundTrip.Statement (.alu011001 d x y) :=
  decode_codeLine (by decide) d x y

theorem RoundTrip.alu011010 (d : AluDest) (x y : WordSrc) : RoundTrip.Statement (.alu011010 d x y) :=
  decode_codeLine (by decide) d x y

theorem RoundTrip.alu011011 (d : AluDest) (x y : WordSrc) : RoundTrip.Statement (.alu011011 d x y) :=
  decode_codeLine (by decide) d x y

theorem RoundTrip.alu011100 (d : AluDest) (x y : WordSrc) : RoundTrip.Statement (.alu011100 d x y) :=
  decode_codeLine (by decide) d x y

theorem RoundTrip.alu011101 (d : AluDest) (x y : WordSrc) : RoundTrip.Statement (.alu011101 d x y) :=
  decode_codeLine (by decide) d x y

theorem RoundTrip.alu011110 (d : AluDest) (x y : WordSrc) : RoundTrip.Statement (.alu011110 d x y) :=
  decode_codeLine (by decide) d x y

theorem RoundTrip.alu011111 (d : AluDest) (x y : WordSrc) : RoundTrip.Statement (.alu011111 d x y) :=
  decode_codeLine (by decide) d x y

theorem RoundTrip.alu100000 (d : AluDest) (x y : WordSrc) : RoundTrip.Statement (.alu100000 d x y) :=
  decode_codeLine (by decide) d x y

theorem RoundTrip.alu100001 (d : AluDest) (x y : WordSrc) : RoundTrip.Statement (.alu100001 d x y) :=
  decode_codeLine (by decide) d x y

theorem RoundTrip.alu100010 (d : AluDest) (x y : WordSrc) : RoundTrip.Statement (.alu100010 d x y) :=
  decode_codeLine (by decide) d x y

theorem RoundTrip.alu100011 (d : AluDest) (x y : WordSrc) : RoundTrip.Statement (.alu100011 d x y) :=
  decode_codeLine (by decide) d x y

theorem RoundTrip.alu100100 (d : AluDest) (x y : WordSrc) : RoundTrip.Statement (.alu100100 d x y) :=
  decode_codeLine (by decide) d x y

theorem RoundTrip.alu100101 (d : AluDest) (x y : WordSrc) : RoundTrip.Statement (.alu100101 d x y) :=
  decode_codeLine (by decide) d x y

theorem RoundTrip.alu100110 (d : AluDest) (x y : WordSrc) : RoundTrip.Statement (.alu100110 d x y) :=
  decode_codeLine (by decide) d x y

theorem RoundTrip.alu100111 (d : AluDest) (x y : WordSrc) : RoundTrip.Statement (.alu100111 d x y) :=
  decode_codeLine (by decide) d x y

theorem RoundTrip.alu101000 (d : AluDest) (x y : WordSrc) : RoundTrip.Statement (.alu101000 d x y) :=
  decode_codeLine (by decide) d x y

theorem RoundTrip.alu101001 (d : AluDest) (x y : WordSrc) : RoundTrip.Statement (.alu101001 d x y) :=
  decode_codeLine (by decide) d x y

theorem RoundTrip.alu101010 (d : AluDest) (x y : WordSrc) : RoundTrip.Statement (.alu101010 d x y) :=
  decode_codeLine (by decide) d x y

theorem RoundTrip.alu101011 (d : AluDest) (x y : WordSrc) : RoundTrip.Statement (.alu101011 d x y) :=
  decode_codeLine (by decide) d x y

theorem RoundTrip.alu101100 (d : AluDest) (x y : WordSrc) : RoundTrip.Statement (.alu101100 d x y) :=
  decode_codeLine (by decide) d x y

theorem RoundTrip.alu101101 (d : AluDest) (x y : WordSrc) : RoundTrip.Statement (.alu101101 d x y) :=
  decode_codeLine (by decide) d x y

theorem RoundTrip.alu101110 (d : AluDest) (x y : WordSrc) : RoundTrip.Statement (.alu101110 d x y) :=
  decode_codeLine (by decide) d x y

theorem RoundTrip.alu101111 (d : AluDest) (x y : WordSrc) : RoundTrip.Statement (.alu101111 d x y) :=
  decode_codeLine (by decide) d x y

theorem RoundTrip.alu110000 (d : AluDest) (x y : WordSrc) : RoundTrip.Statement (.alu110000 d x y) :=
  decode_codeLine (by decide) d x y

theorem RoundTrip.alu110001 (d : AluDest) (x y : WordSrc) : RoundTrip.Statement (.alu110001 d x y) :=
  decode_codeLine (by decide) d x y

theorem RoundTrip.alu110010 (d : AluDest) (x y : WordSrc) : RoundTrip.Statement (.alu110010 d x y) :=
  decode_codeLine (by decide) d x y

theorem RoundTrip.alu110011 (d : AluDest) (x y : WordSrc) : RoundTrip.Statement (.alu110011 d x y) :=
  decode_codeLine (by decide) d x y

theorem RoundTrip.alu110100 (d : AluDest) (x y : WordSrc) : RoundTrip.Statement (.alu110100 d x y) :=
  decode_codeLine (by decide) d x y

theorem RoundTrip.alu110101 (d : AluDest) (x y : WordSrc) : RoundTrip.Statement (.alu110101 d x y) :=
  decode_codeLine (by decide) d x y

theorem RoundTrip.alu110110 (d : AluDest) (x y : WordSrc) : RoundTrip.Statement (.alu110110 d x y) :=
  decode_codeLine (by decide) d x y

theorem RoundTrip.alu110111 (d : AluDest) (x y : WordSrc) : RoundTrip.Statement (.alu110111 d x y) :=
  decode_codeLine (by decide) d x y

theorem RoundTrip.alu111000 (d : AluDest) (x y : WordSrc) : RoundTrip.Statement (.alu111000 d x y) :=
  decode_codeLine (by decide) d x y

theorem RoundTrip.alu111001 (d : AluDest) (x y : WordSrc) : RoundTrip.Statement (.alu111001 d x y) :=
  decode_codeLine (by decide) d x y

theorem RoundTrip.alu111010 (d : AluDest) (x y : WordSrc) : RoundTrip.Statement (.alu111010 d x y) :=
  decode_codeLine (by decide) d x y

theorem RoundTrip.alu111011 (d : AluDest) (x y : WordSrc) : RoundTrip.Statement (.alu111011 d x y) :=
  decode_codeLine (by decide) d x y

theorem RoundTrip.alu111100 (d : AluDest) (x y : WordSrc) : RoundTrip.Statement (.alu111100 d x y) :=
  decode_codeLine (by decide) d x y

theorem RoundTrip.alu111101 (d : AluDest) (x y : WordSrc) : RoundTrip.Statement (.alu111101 d x y) :=
  decode_codeLine (by decide) d x y

theorem RoundTrip.alu111110 (d : AluDest) (x y : WordSrc) : RoundTrip.Statement (.alu111110 d x y) :=
  decode_codeLine (by decide) d x y

theorem RoundTrip.alu111111 (d : AluDest) (x y : WordSrc) : RoundTrip.Statement (.alu111111 d x y) :=
  decode_codeLine (by decide) d x y

theorem UnitPorts.and (o : Name) (a b : BitSrc) : UnitPorts.Statement (.and o a b) := ⟨rfl, Or.inl rfl⟩

theorem UnitPorts.or (o : Name) (a b : BitSrc) : UnitPorts.Statement (.or o a b) := ⟨rfl, Or.inl rfl⟩

theorem UnitPorts.not (o : Name) (a : BitSrc) : UnitPorts.Statement (.not o a) := ⟨rfl, Or.inl rfl⟩

theorem UnitPorts.nand (o : Name) (a b : BitSrc) : UnitPorts.Statement (.nand o a b) := ⟨rfl, Or.inl rfl⟩

theorem UnitPorts.xor (o : Name) (a b : BitSrc) : UnitPorts.Statement (.xor o a b) := ⟨rfl, Or.inl rfl⟩

theorem UnitPorts.halfAdder (s k : Name) (a b : BitSrc) : UnitPorts.Statement (.halfAdder s k a b) := ⟨rfl, Or.inl rfl⟩

theorem UnitPorts.fullAdder (s k : Name) (a b c : BitSrc) : UnitPorts.Statement (.fullAdder s k a b c) := ⟨rfl, Or.inl rfl⟩

theorem UnitPorts.adder16 (o : Name) (A B : WordSrc) : UnitPorts.Statement (.adder16 o A B) := ⟨rfl, Or.inl rfl⟩

theorem UnitPorts.inc16 (o : Name) (A : WordSrc) : UnitPorts.Statement (.inc16 o A) := ⟨rfl, Or.inl rfl⟩

theorem UnitPorts.mux16 (o : Name) (A B : WordSrc) (sel : BitSrc) : UnitPorts.Statement (.mux16 o A B sel) := ⟨rfl, Or.inl rfl⟩

theorem UnitPorts.not16 (o : Name) (A : WordSrc) : UnitPorts.Statement (.not16 o A) := ⟨rfl, Or.inl rfl⟩

theorem UnitPorts.and16 (o : Name) (A B : WordSrc) : UnitPorts.Statement (.and16 o A B) := ⟨rfl, Or.inl rfl⟩

theorem UnitPorts.alu (d : AluDest) (x y : WordSrc) (zx nx zy ny f no : BitSrc) : UnitPorts.Statement (.alu d x y zx nx zy ny f no) := unitPorts_alu rfl rfl rfl

theorem UnitPorts.alu000000 (d : AluDest) (x y : WordSrc) : UnitPorts.Statement (.alu000000 d x y) :=
  unitPorts_alu rfl rfl rfl

theorem UnitPorts.alu000001 (d : AluDest) (x y : WordSrc) : UnitPorts.Statement (.alu000001 d x y) :=
  unitPorts_alu rfl rfl rfl

theorem UnitPorts.alu000010 (d : AluDest) (x y : WordSrc) : UnitPorts.Statement (.alu000010 d x y) :=
  unitPorts_alu rfl rfl rfl

theorem UnitPorts.alu000011 (d : AluDest) (x y : WordSrc) : UnitPorts.Statement (.alu000011 d x y) :=
  unitPorts_alu rfl rfl rfl

theorem UnitPorts.alu000100 (d : AluDest) (x y : WordSrc) : UnitPorts.Statement (.alu000100 d x y) :=
  unitPorts_alu rfl rfl rfl

theorem UnitPorts.alu000101 (d : AluDest) (x y : WordSrc) : UnitPorts.Statement (.alu000101 d x y) :=
  unitPorts_alu rfl rfl rfl

theorem UnitPorts.alu000110 (d : AluDest) (x y : WordSrc) : UnitPorts.Statement (.alu000110 d x y) :=
  unitPorts_alu rfl rfl rfl

theorem UnitPorts.alu000111 (d : AluDest) (x y : WordSrc) : UnitPorts.Statement (.alu000111 d x y) :=
  unitPorts_alu rfl rfl rfl

theorem UnitPorts.alu001000 (d : AluDest) (x y : WordSrc) : UnitPorts.Statement (.alu001000 d x y) :=
  unitPorts_alu rfl rfl rfl

theorem UnitPorts.alu001001 (d : AluDest) (x y : WordSrc) : UnitPorts.Statement (.alu001001 d x y) :=
  unitPorts_alu rfl rfl rfl

theorem UnitPorts.alu001010 (d : AluDest) (x y : WordSrc) : UnitPorts.Statement (.alu001010 d x y) :=
  unitPorts_alu rfl rfl rfl

theorem UnitPorts.alu001011 (d : AluDest) (x y : WordSrc) : UnitPorts.Statement (.alu001011 d x y) :=
  unitPorts_alu rfl rfl rfl

theorem UnitPorts.alu001100 (d : AluDest) (x y : WordSrc) : UnitPorts.Statement (.alu001100 d x y) :=
  unitPorts_alu rfl rfl rfl

theorem UnitPorts.alu001101 (d : AluDest) (x y : WordSrc) : UnitPorts.Statement (.alu001101 d x y) :=
  unitPorts_alu rfl rfl rfl

theorem UnitPorts.alu001110 (d : AluDest) (x y : WordSrc) : UnitPorts.Statement (.alu001110 d x y) :=
  unitPorts_alu rfl rfl rfl

theorem UnitPorts.alu001111 (d : AluDest) (x y : WordSrc) : UnitPorts.Statement (.alu001111 d x y) :=
  unitPorts_alu rfl rfl rfl

theorem UnitPorts.alu010000 (d : AluDest) (x y : WordSrc) : UnitPorts.Statement (.alu010000 d x y) :=
  unitPorts_alu rfl rfl rfl

theorem UnitPorts.alu010001 (d : AluDest) (x y : WordSrc) : UnitPorts.Statement (.alu010001 d x y) :=
  unitPorts_alu rfl rfl rfl

theorem UnitPorts.alu010010 (d : AluDest) (x y : WordSrc) : UnitPorts.Statement (.alu010010 d x y) :=
  unitPorts_alu rfl rfl rfl

theorem UnitPorts.alu010011 (d : AluDest) (x y : WordSrc) : UnitPorts.Statement (.alu010011 d x y) :=
  unitPorts_alu rfl rfl rfl

theorem UnitPorts.alu010100 (d : AluDest) (x y : WordSrc) : UnitPorts.Statement (.alu010100 d x y) :=
  unitPorts_alu rfl rfl rfl

theorem UnitPorts.alu010101 (d : AluDest) (x y : WordSrc) : UnitPorts.Statement (.alu010101 d x y) :=
  unitPorts_alu rfl rfl rfl

theorem UnitPorts.alu010110 (d : AluDest) (x y : WordSrc) : UnitPorts.Statement (.alu010110 d x y) :=
  unitPorts_alu rfl rfl rfl

theorem UnitPorts.alu010111 (d : AluDest) (x y : WordSrc) : UnitPorts.Statement (.alu010111 d x y) :=
  unitPorts_alu rfl rfl rfl

theorem UnitPorts.alu011000 (d : AluDest) (x y : WordSrc) : UnitPorts.Statement (.alu011000 d x y) :=
  unitPorts_alu rfl rfl rfl

theorem UnitPorts.alu011001 (d : AluDest) (x y : WordSrc) : UnitPorts.Statement (.alu011001 d x y) :=
  unitPorts_alu rfl rfl rfl

theorem UnitPorts.alu011010 (d : AluDest) (x y : WordSrc) : UnitPorts.Statement (.alu011010 d x y) :=
  unitPorts_alu rfl rfl rfl

theorem UnitPorts.alu011011 (d : AluDest) (x y : WordSrc) : UnitPorts.Statement (.alu011011 d x y) :=
  unitPorts_alu rfl rfl rfl

theorem UnitPorts.alu011100 (d : AluDest) (x y : WordSrc) : UnitPorts.Statement (.alu011100 d x y) :=
  unitPorts_alu rfl rfl rfl

theorem UnitPorts.alu011101 (d : AluDest) (x y : WordSrc) : UnitPorts.Statement (.alu011101 d x y) :=
  unitPorts_alu rfl rfl rfl

theorem UnitPorts.alu011110 (d : AluDest) (x y : WordSrc) : UnitPorts.Statement (.alu011110 d x y) :=
  unitPorts_alu rfl rfl rfl

theorem UnitPorts.alu011111 (d : AluDest) (x y : WordSrc) : UnitPorts.Statement (.alu011111 d x y) :=
  unitPorts_alu rfl rfl rfl

theorem UnitPorts.alu100000 (d : AluDest) (x y : WordSrc) : UnitPorts.Statement (.alu100000 d x y) :=
  unitPorts_alu rfl rfl rfl

theorem UnitPorts.alu100001 (d : AluDest) (x y : WordSrc) : UnitPorts.Statement (.alu100001 d x y) :=
  unitPorts_alu rfl rfl rfl

theorem UnitPorts.alu100010 (d : AluDest) (x y : WordSrc) : UnitPorts.Statement (.alu100010 d x y) :=
  unitPorts_alu rfl rfl rfl

theorem UnitPorts.alu100011 (d : AluDest) (x y : WordSrc) : UnitPorts.Statement (.alu100011 d x y) :=
  unitPorts_alu rfl rfl rfl

theorem UnitPorts.alu100100 (d : AluDest) (x y : WordSrc) : UnitPorts.Statement (.alu100100 d x y) :=
  unitPorts_alu rfl rfl rfl

theorem UnitPorts.alu100101 (d : AluDest) (x y : WordSrc) : UnitPorts.Statement (.alu100101 d x y) :=
  unitPorts_alu rfl rfl rfl

theorem UnitPorts.alu100110 (d : AluDest) (x y : WordSrc) : UnitPorts.Statement (.alu100110 d x y) :=
  unitPorts_alu rfl rfl rfl

theorem UnitPorts.alu100111 (d : AluDest) (x y : WordSrc) : UnitPorts.Statement (.alu100111 d x y) :=
  unitPorts_alu rfl rfl rfl

theorem UnitPorts.alu101000 (d : AluDest) (x y : WordSrc) : UnitPorts.Statement (.alu101000 d x y) :=
  unitPorts_alu rfl rfl rfl

theorem UnitPorts.alu101001 (d : AluDest) (x y : WordSrc) : UnitPorts.Statement (.alu101001 d x y) :=
  unitPorts_alu rfl rfl rfl

theorem UnitPorts.alu101010 (d : AluDest) (x y : WordSrc) : UnitPorts.Statement (.alu101010 d x y) :=
  unitPorts_alu rfl rfl rfl

theorem UnitPorts.alu101011 (d : AluDest) (x y : WordSrc) : UnitPorts.Statement (.alu101011 d x y) :=
  unitPorts_alu rfl rfl rfl

theorem UnitPorts.alu101100 (d : AluDest) (x y : WordSrc) : UnitPorts.Statement (.alu101100 d x y) :=
  unitPorts_alu rfl rfl rfl

theorem UnitPorts.alu101101 (d : AluDest) (x y : WordSrc) : UnitPorts.Statement (.alu101101 d x y) :=
  unitPorts_alu rfl rfl rfl

theorem UnitPorts.alu101110 (d : AluDest) (x y : WordSrc) : UnitPorts.Statement (.alu101110 d x y) :=
  unitPorts_alu rfl rfl rfl

theorem UnitPorts.alu101111 (d : AluDest) (x y : WordSrc) : UnitPorts.Statement (.alu101111 d x y) :=
  unitPorts_alu rfl rfl rfl

theorem UnitPorts.alu110000 (d : AluDest) (x y : WordSrc) : UnitPorts.Statement (.alu110000 d x y) :=
  unitPorts_alu rfl rfl rfl

theorem UnitPorts.alu110001 (d : AluDest) (x y : WordSrc) : UnitPorts.Statement (.alu110001 d x y) :=
  unitPorts_alu rfl rfl rfl

theorem UnitPorts.alu110010 (d : AluDest) (x y : WordSrc) : UnitPorts.Statement (.alu110010 d x y) :=
  unitPorts_alu rfl rfl rfl

theorem UnitPorts.alu110011 (d : AluDest) (x y : WordSrc) : UnitPorts.Statement (.alu110011 d x y) :=
  unitPorts_alu rfl rfl rfl

theorem UnitPorts.alu110100 (d : AluDest) (x y : WordSrc) : UnitPorts.Statement (.alu110100 d x y) :=
  unitPorts_alu rfl rfl rfl

theorem UnitPorts.alu110101 (d : AluDest) (x y : WordSrc) : UnitPorts.Statement (.alu110101 d x y) :=
  unitPorts_alu rfl rfl rfl

theorem UnitPorts.alu110110 (d : AluDest) (x y : WordSrc) : UnitPorts.Statement (.alu110110 d x y) :=
  unitPorts_alu rfl rfl rfl

theorem UnitPorts.alu110111 (d : AluDest) (x y : WordSrc) : UnitPorts.Statement (.alu110111 d x y) :=
  unitPorts_alu rfl rfl rfl

theorem UnitPorts.alu111000 (d : AluDest) (x y : WordSrc) : UnitPorts.Statement (.alu111000 d x y) :=
  unitPorts_alu rfl rfl rfl

theorem UnitPorts.alu111001 (d : AluDest) (x y : WordSrc) : UnitPorts.Statement (.alu111001 d x y) :=
  unitPorts_alu rfl rfl rfl

theorem UnitPorts.alu111010 (d : AluDest) (x y : WordSrc) : UnitPorts.Statement (.alu111010 d x y) :=
  unitPorts_alu rfl rfl rfl

theorem UnitPorts.alu111011 (d : AluDest) (x y : WordSrc) : UnitPorts.Statement (.alu111011 d x y) :=
  unitPorts_alu rfl rfl rfl

theorem UnitPorts.alu111100 (d : AluDest) (x y : WordSrc) : UnitPorts.Statement (.alu111100 d x y) :=
  unitPorts_alu rfl rfl rfl

theorem UnitPorts.alu111101 (d : AluDest) (x y : WordSrc) : UnitPorts.Statement (.alu111101 d x y) :=
  unitPorts_alu rfl rfl rfl

theorem UnitPorts.alu111110 (d : AluDest) (x y : WordSrc) : UnitPorts.Statement (.alu111110 d x y) :=
  unitPorts_alu rfl rfl rfl

theorem UnitPorts.alu111111 (d : AluDest) (x y : WordSrc) : UnitPorts.Statement (.alu111111 d x y) :=
  unitPorts_alu rfl rfl rfl

end Sys2Proof.Laws
end

