-- ==== Sys2Proof/Tests/Slice0.lean ====
section
/-! SUPPORT. Tests: their expected results are the spec's own examples and vectors (spec/95_test_vectors.md, named in each
comment), words written out from spec/30_encoding.md; and for every obligation that has hypotheses, a state and operands
that meet all of them together. -/

namespace Sys2Proof.Tests

open Sys2Proof.Machine

/-! Readers of an outcome, so that a test is a decidable equality. -/

def valueOf (o : Outcome) (n : Name) : Option Value :=
  match o with
  | .next t => t.nets.get n
  | .fault _ => none
  | .refused _ => none

def faultOf (o : Outcome) : Option Fault :=
  match o with
  | .next _ => none
  | .fault f => some f
  | .refused _ => none

def refusalOf (o : Outcome) : Option Refusal :=
  match o with
  | .next _ => none
  | .fault _ => none
  | .refused r => some r

/-- The outcome of one instruction on a state that drives the given names, RAW_BITS as given. -/
def run1 (raw : Bool) (nets : Nets) (i : Instr) : Outcome := exec i { State.reset with nets := nets, rawBits := raw }

def bitOut (i : Instr) (n : Name) : Option Value := valueOf (run1 false [] i) n

/-- A raw word of sixteen legal Bits but for one element. -/
def rawWith (w : Word16) (i : Fin 16) (v : Byte) : RawWord :=
  Vector.ofFn fun j => if j = i then v else Byte.ofBit (w.elem j)

/-! WellFormed: each check has an ill-formed term that it refuses. -/

theorem test_wf_accepts : (Instr.halfAdder 2 3 (.net 0) (.net 1)).wellFormed = true := by decide

/-- R81: "Names are single-assignment". -/
theorem test_wf_refuses_same_output_twice : (Instr.halfAdder 2 2 (.net 0) (.net 1)).destsDistinct = false := by decide

/-- R335: no output drives an input of its own unit. -/
theorem test_wf_refuses_feedback : (Instr.nand 2 (.net 0) (.net 2)).noFeedback = false := by decide

/-- R81: each name is defined before every line that uses it. -/
theorem test_wf_refuses_use_before_definition : (Instr.not 1 (.net 0)).portsDefined [] = false := by decide

/-- R70: a Bit port takes no Word16. -/
theorem test_wf_refuses_wrong_width : (Instr.not 1 (.net 0)).portsDefined [(0, .word)] = false := by decide

/-- R81: a name is defined once. -/
theorem test_wf_refuses_second_definition : (Instr.not 1 (.net 0)).destsNew [(0, .bit), (1, .bit)] = false := by decide

/-- P3 of section 3 is a well-formed netlist over the words a and b; with its lines swapped it is none. -/
theorem test_wf_netlist :
    Netlist.wellFormed [(0, .word), (1, .word)]
      [.alu010011 ⟨2, some (3, 4)⟩ (.net 0) (.net 1), .mux16 5 (.net 0) (.net 1) (.net 4)] = true ∧
    Netlist.wellFormed [(0, .word), (1, .word)]
      [.mux16 5 (.net 0) (.net 1) (.net 4), .alu010011 ⟨2, some (3, 4)⟩ (.net 0) (.net 1)] = false := by decide

/-! Decoding, each line written out from R70, R72, R81 and R82. -/

def decoded (l : Line) : Option Instr :=
  match decode l with
  | .ok i => some i
  | .error _ => none

def decodeErr (l : Line) : Option DecodeError :=
  match decode l with
  | .ok _ => none
  | .error e => some e

theorem test_decode_gates :
    decoded ⟨.cell .and, [2], [.net 0, .net 1]⟩ = some (.and 2 (.net 0) (.net 1)) ∧
    decoded ⟨.cell .or, [2], [.net 0, .bit true]⟩ = some (.or 2 (.net 0) (.lit true)) ∧
    decoded ⟨.cell .not, [2], [.net 0]⟩ = some (.not 2 (.net 0)) ∧
    decoded ⟨.cell .nand, [2], [.bit false, .net 1]⟩ = some (.nand 2 (.lit false) (.net 1)) ∧
    decoded ⟨.cell .xor, [2], [.net 0, .net 1]⟩ = some (.xor 2 (.net 0) (.net 1)) := by decide

theorem test_decode_chips :
    decoded ⟨.cell .halfAdder, [2, 3], [.net 0, .net 1]⟩ = some (.halfAdder 2 3 (.net 0) (.net 1)) ∧
    decoded ⟨.cell .fullAdder, [3, 4], [.net 0, .net 1, .net 2]⟩ = some (.fullAdder 3 4 (.net 0) (.net 1) (.net 2)) ∧
    decoded ⟨.cell .adder16, [2], [.net 0, .net 1]⟩ = some (.adder16 2 (.net 0) (.net 1)) ∧
    decoded ⟨.cell .inc16, [2], [.word 0x2AAA#16]⟩ = some (.inc16 2 (.lit 0x2AAA#16)) ∧
    decoded ⟨.cell .mux16, [3], [.net 0, .net 1, .net 2]⟩ = some (.mux16 3 (.net 0) (.net 1) (.net 2)) ∧
    decoded ⟨.cell .not16, [2], [.net 0]⟩ = some (.not16 2 (.net 0)) ∧
    decoded ⟨.cell .and16, [2], [.net 0, .net 1]⟩ = some (.and16 2 (.net 0) (.net 1)) := by decide

/-- R81: `out, zr, ng = ALU(…)` and `out = ALU(…)`, the control ports in the order zx nx zy ny f no of R70. -/
theorem test_decode_alu :
    decoded ⟨.cell .alu, [8, 9, 10], [.net 0, .net 1, .net 2, .net 3, .net 4, .net 5, .net 6, .net 7]⟩ =
      some (.alu ⟨8, some (9, 10)⟩ (.net 0) (.net 1) (.net 2) (.net 3) (.net 4) (.net 5) (.net 6) (.net 7)) ∧
    decoded ⟨.cell .alu, [8], [.net 0, .net 1, .bit true, .bit false, .bit true, .bit false, .bit true, .bit false]⟩ =
      some (.alu ⟨8, none⟩ (.net 0) (.net 1) (.lit true) (.lit false) (.lit true) (.lit false) (.lit true)
        (.lit false)) := by decide

/-- The line of each control code, x and y the names 0 and 1, its outputs 2, 3 and 4. -/
def codeNetLine (ctl : Nat) : Line := ⟨.code (BitVec.ofNat 8 ctl), [2, 3, 4], [.net 0, .net 1]⟩

def codeDest : AluDest := ⟨2, some (3, 4)⟩

/-- The "encoding" column of spec/opcode_table.json, 000000 to 000111. -/
theorem test_decode_codes_0 :
    [decoded (codeNetLine 0x00), decoded (codeNetLine 0x01), decoded (codeNetLine 0x02), decoded (codeNetLine 0x03),
     decoded (codeNetLine 0x04), decoded (codeNetLine 0x05), decoded (codeNetLine 0x06), decoded (codeNetLine 0x07)] =
    ([.alu000000 codeDest (.net 0) (.net 1), .alu000001 codeDest (.net 0) (.net 1), .alu000010 codeDest (.net 0) (.net 1),
      .alu000011 codeDest (.net 0) (.net 1), .alu000100 codeDest (.net 0) (.net 1), .alu000101 codeDest (.net 0) (.net 1),
      .alu000110 codeDest (.net 0) (.net 1), .alu000111 codeDest (.net 0) (.net 1)] : List Instr).map some := by decide

/-- The "encoding" column of spec/opcode_table.json, 001000 to 001111. -/
theorem test_decode_codes_1 :
    [decoded (codeNetLine 0x08), decoded (codeNetLine 0x09), decoded (codeNetLine 0x0A), decoded (codeNetLine 0x0B),
     decoded (codeNetLine 0x0C), decoded (codeNetLine 0x0D), decoded (codeNetLine 0x0E), decoded (codeNetLine 0x0F)] =
    ([.alu001000 codeDest (.net 0) (.net 1), .alu001001 codeDest (.net 0) (.net 1), .alu001010 codeDest (.net 0) (.net 1),
      .alu001011 codeDest (.net 0) (.net 1), .alu001100 codeDest (.net 0) (.net 1), .alu001101 codeDest (.net 0) (.net 1),
      .alu001110 codeDest (.net 0) (.net 1), .alu001111 codeDest (.net 0) (.net 1)] : List Instr).map some := by decide

/-- The "encoding" column of spec/opcode_table.json, 010000 to 010111. -/
theorem test_decode_codes_2 :
    [decoded (codeNetLine 0x10), decoded (codeNetLine 0x11), decoded (codeNetLine 0x12), decoded (codeNetLine 0x13),
     decoded (codeNetLine 0x14), decoded (codeNetLine 0x15), decoded (codeNetLine 0x16), decoded (codeNetLine 0x17)] =
    ([.alu010000 codeDest (.net 0) (.net 1), .alu010001 codeDest (.net 0) (.net 1), .alu010010 codeDest (.net 0) (.net 1),
      .alu010011 codeDest (.net 0) (.net 1), .alu010100 codeDest (.net 0) (.net 1), .alu010101 codeDest (.net 0) (.net 1),
      .alu010110 codeDest (.net 0) (.net 1), .alu010111 codeDest (.net 0) (.net 1)] : List Instr).map some := by decide

/-- The "encoding" column of spec/opcode_table.json, 011000 to 011111. -/
theorem test_decode_codes_3 :
    [decoded (codeNetLine 0x18), decoded (codeNetLine 0x19), decoded (codeNetLine 0x1A), decoded (codeNetLine 0x1B),
     decoded (codeNetLine 0x1C), decoded (codeNetLine 0x1D), decoded (codeNetLine 0x1E), decoded (codeNetLine 0x1F)] =
    ([.alu011000 codeDest (.net 0) (.net 1), .alu011001 codeDest (.net 0) (.net 1), .alu011010 codeDest (.net 0) (.net 1),
      .alu011011 codeDest (.net 0) (.net 1), .alu011100 codeDest (.net 0) (.net 1), .alu011101 codeDest (.net 0) (.net 1),
      .alu011110 codeDest (.net 0) (.net 1), .alu011111 codeDest (.net 0) (.net 1)] : List Instr).map some := by decide

/-- The "encoding" column of spec/opcode_table.json, 100000 to 100111. -/
theorem test_decode_codes_4 :
    [decoded (codeNetLine 0x20), decoded (codeNetLine 0x21), decoded (codeNetLine 0x22), decoded (codeNetLine 0x23),
     decoded (codeNetLine 0x24), decoded (codeNetLine 0x25), decoded (codeNetLine 0x26), decoded (codeNetLine 0x27)] =
    ([.alu100000 codeDest (.net 0) (.net 1), .alu100001 codeDest (.net 0) (.net 1), .alu100010 codeDest (.net 0) (.net 1),
      .alu100011 codeDest (.net 0) (.net 1), .alu100100 codeDest (.net 0) (.net 1), .alu100101 codeDest (.net 0) (.net 1),
      .alu100110 codeDest (.net 0) (.net 1), .alu100111 codeDest (.net 0) (.net 1)] : List Instr).map some := by decide

/-- The "encoding" column of spec/opcode_table.json, 101000 to 101111. -/
theorem test_decode_codes_5 :
    [decoded (codeNetLine 0x28), decoded (codeNetLine 0x29), decoded (codeNetLine 0x2A), decoded (codeNetLine 0x2B),
     decoded (codeNetLine 0x2C), decoded (codeNetLine 0x2D), decoded (codeNetLine 0x2E), decoded (codeNetLine 0x2F)] =
    ([.alu101000 codeDest (.net 0) (.net 1), .alu101001 codeDest (.net 0) (.net 1), .alu101010 codeDest (.net 0) (.net 1),
      .alu101011 codeDest (.net 0) (.net 1), .alu101100 codeDest (.net 0) (.net 1), .alu101101 codeDest (.net 0) (.net 1),
      .alu101110 codeDest (.net 0) (.net 1), .alu101111 codeDest (.net 0) (.net 1)] : List Instr).map some := by decide

/-- The "encoding" column of spec/opcode_table.json, 110000 to 110111. -/
theorem test_decode_codes_6 :
    [decoded (codeNetLine 0x30), decoded (codeNetLine 0x31), decoded (codeNetLine 0x32), decoded (codeNetLine 0x33),
     decoded (codeNetLine 0x34), decoded (codeNetLine 0x35), decoded (codeNetLine 0x36), decoded (codeNetLine 0x37)] =
    ([.alu110000 codeDest (.net 0) (.net 1), .alu110001 codeDest (.net 0) (.net 1), .alu110010 codeDest (.net 0) (.net 1),
      .alu110011 codeDest (.net 0) (.net 1), .alu110100 codeDest (.net 0) (.net 1), .alu110101 codeDest (.net 0) (.net 1),
      .alu110110 codeDest (.net 0) (.net 1), .alu110111 codeDest (.net 0) (.net 1)] : List Instr).map some := by decide

/-- The "encoding" column of spec/opcode_table.json, 111000 to 111111. -/
theorem test_decode_codes_7 :
    [decoded (codeNetLine 0x38), decoded (codeNetLine 0x39), decoded (codeNetLine 0x3A), decoded (codeNetLine 0x3B),
     decoded (codeNetLine 0x3C), decoded (codeNetLine 0x3D), decoded (codeNetLine 0x3E), decoded (codeNetLine 0x3F)] =
    ([.alu111000 codeDest (.net 0) (.net 1), .alu111001 codeDest (.net 0) (.net 1), .alu111010 codeDest (.net 0) (.net 1),
      .alu111011 codeDest (.net 0) (.net 1), .alu111100 codeDest (.net 0) (.net 1), .alu111101 codeDest (.net 0) (.net 1),
      .alu111110 codeDest (.net 0) (.net 1), .alu111111 codeDest (.net 0) (.net 1)] : List Instr).map some := by decide

/-- R82: SUB is 010011, PASSY 110000, OR 010101. -/
theorem test_decode_pseudo :
    decoded ⟨.pseudo .sub, [2], [.net 0, .net 1]⟩ = some (.alu010011 ⟨2, none⟩ (.net 0) (.net 1)) ∧
    decoded ⟨.pseudo .passy, [2], [.net 0, .net 1]⟩ = some (.alu110000 ⟨2, none⟩ (.net 0) (.net 1)) ∧
    decoded ⟨.pseudo .or, [2], [.net 0, .net 1]⟩ = some (.alu010101 ⟨2, none⟩ (.net 0) (.net 1)) := by decide

/-- A line that is none of R81 is rejected by name: a missing input, a missing output, a Word16 at a Bit port, a control
byte of more than six bits (its first value 0x40, its last 0xFF). -/
theorem test_decode_rejects :
    decodeErr ⟨.cell .and, [2], [.net 0]⟩ = some .portCount ∧
    decodeErr ⟨.cell .halfAdder, [2], [.net 0, .net 1]⟩ = some .portCount ∧
    decodeErr ⟨.cell .alu, [2, 3], [.net 0, .net 1, .bit true, .bit true, .bit true, .bit true, .bit true, .bit true]⟩ =
      some .portCount ∧
    decodeErr ⟨.cell .not, [2], [.word 1#16]⟩ = some .portWidth ∧
    decodeErr ⟨.cell .inc16, [2], [.bit true]⟩ = some .portWidth ∧
    decodeErr (codeNetLine 0x40) = some .controlCode ∧
    decodeErr (codeNetLine 0xFF) = some .controlCode := by decide

/-- A table word: 0x13 is the spec's own example SUB (R72); 0x40 has a bit above the six. -/
theorem test_decode_table_word :
    decodeTableWord 8 0x13 = some (.alu010011 ⟨0, some (1, 2)⟩ (.lit 0#16) (.lit 0#16)) ∧
    decodeTableWord 8 0x40 = none ∧ decodeTableWord 8 0x113 = none := by decide

/-- The text of a line in the form of R81. -/
theorem test_line_text :
    (encode (.alu010011 ⟨3, some (4, 5)⟩ (.net 1) (.lit 0x00FF#16))).text = "n3, n4, n5 = ALU.010011(n1, 0x00FF)" := by
  decide

/-! The word notation (R11, R12) and S2's row of elements: 0x2AAA is 0010101010101010, index 0 first. -/

theorem test_word_elements :
    (List.finRange 16).map (fun i => Word16.elem 0x2AAA#16 i) =
      [false, false, true, false, true, false, true, false, true, false, true, false, true, false, true, false] ∧
    Word16.val 0x2AAA#16 = 10922 ∧ Word16.sval 0xFFFB#16 = -5 := by decide

/-! Gates: vectors G1, G2. -/

def twoBits : List (Bit × Bit) := [(false, false), (false, true), (true, false), (true, true)]

/-- G1. -/
theorem test_gates_g1 :
    twoBits.map (fun p => bitOut (.and 0 (.lit p.1) (.lit p.2)) 0) = [false, false, false, true].map (some ∘ Value.bit) ∧
    twoBits.map (fun p => bitOut (.or 0 (.lit p.1) (.lit p.2)) 0) = [false, true, true, true].map (some ∘ Value.bit) ∧
    twoBits.map (fun p => bitOut (.nand 0 (.lit p.1) (.lit p.2)) 0) = [true, true, true, false].map (some ∘ Value.bit) ∧
    twoBits.map (fun p => bitOut (.xor 0 (.lit p.1) (.lit p.2)) 0) = [false, true, true, false].map (some ∘ Value.bit) := by
  decide

/-- G2. -/
theorem test_gates_g2 :
    bitOut (.not 0 (.lit false)) 0 = some (.bit true) ∧ bitOut (.not 0 (.lit true)) 0 = some (.bit false) := by decide

/-- G3. -/
theorem test_gates_g3 :
    faultOf (run1 true [(0, .rawBit 2#8)] (.and 1 (.net 0) (.lit false))) = some (.domainError ⟨.and, ⟨.a, none⟩, 2#8⟩) ∧
    faultOf (run1 true [(0, .rawBit 255#8)] (.not 1 (.net 0))) = some (.domainError ⟨.not, ⟨.a, none⟩, 255#8⟩) ∧
    faultOf (run1 true [(0, .rawBit 7#8)] (.xor 1 (.lit false) (.net 0))) = some (.domainError ⟨.xor, ⟨.b, none⟩, 7#8⟩) := by
  decide

/-- G4: both outcomes are admitted and no other. -/
theorem test_gates_g4 :
    faultOf (run1 true [(0, .rawBit 2#8), (1, .rawBit 3#8)] (.and 2 (.net 0) (.net 1))) ∈
      ([some (.domainError ⟨.and, ⟨.a, none⟩, 2#8⟩), some (.domainError ⟨.and, ⟨.b, none⟩, 3#8⟩)] : List (Option Fault)) := by
  have h : ∀ k : Nat, k < 2 →
      some (Fault.domainError ((([⟨.and, ⟨.a, none⟩, 2#8⟩, ⟨.and, ⟨.b, none⟩, 3#8⟩] : List DomainInfo)[k]?).getD
        ⟨.and, ⟨.a, none⟩, 2#8⟩)) ∈
      ([some (.domainError ⟨.and, ⟨.a, none⟩, 2#8⟩), some (.domainError ⟨.and, ⟨.b, none⟩, 3#8⟩)] : List (Option Fault)) := by
    decide
  exact h _ (Nat.mod_lt _ (by decide))

/-- G5: the nearest legal inputs on the raw interface. -/
theorem test_gates_g5 :
    valueOf (run1 true [(0, .rawBit 1#8), (1, .rawBit 1#8)] (.and 2 (.net 0) (.net 1))) 2 = some (.bit true) ∧
    valueOf (run1 true [(0, .rawBit 0#8), (1, .rawBit 0#8)] (.or 2 (.net 0) (.net 1))) 2 = some (.bit false) := by decide

/-! Adder cells: A1 (which is S1) and A2; the outputs in the order (sum, carry). -/

theorem test_half_adder_a1 :
    twoBits.map (fun p => (bitOut (.halfAdder 0 1 (.lit p.1) (.lit p.2)) 0, bitOut (.halfAdder 0 1 (.lit p.1) (.lit p.2)) 1)) =
    [(false, false), (true, false), (true, false), (false, true)].map
      fun q : Bit × Bit => (some (Value.bit q.1), some (Value.bit q.2)) := by decide

theorem test_full_adder_a2 :
    ([(false, false, false), (false, false, true), (false, true, false), (false, true, true), (true, false, false),
      (true, false, true), (true, true, false), (true, true, true)] : List (Bit × Bit × Bit)).map
      (fun p => (bitOut (.fullAdder 0 1 (.lit p.1) (.lit p.2.1) (.lit p.2.2)) 0,
        bitOut (.fullAdder 0 1 (.lit p.1) (.lit p.2.1) (.lit p.2.2)) 1)) =
    [(false, false), (true, false), (true, false), (false, true), (true, false), (false, true), (false, true),
      (true, true)].map fun q : Bit × Bit => (some (Value.bit q.1), some (Value.bit q.2)) := by decide

/-! 16-wide chips: the tables of sections 2.3 to 2.5, S2 to S4, W1 to W4. -/

def wordOut (i : Instr) : Option Value := valueOf (run1 false [] i) 0

theorem test_adder16 :
    ([(0x2AAA#16, 0x1555#16), (0xABCD#16, 0x0000#16), (0x1234#16, 0x5678#16), (0x00FF#16, 0x0001#16), (0x5555#16, 0xAAAA#16),
      (0x7FFF#16, 0x0001#16), (0x8000#16, 0x8000#16), (0xFFFF#16, 0x0001#16), (0xFFFF#16, 0xFFFF#16),
      (0x1234#16, 0xEDCC#16)] : List (Word16 × Word16)).map (fun p => wordOut (.adder16 0 (.lit p.1) (.lit p.2))) =
    [0x3FFF#16, 0xABCD#16, 0x68AC#16, 0x0100#16, 0xFFFF#16, 0x8000#16, 0x0000#16, 0x0000#16, 0xFFFE#16, 0x0000#16].map
      (some ∘ Value.word) := by decide

theorem test_inc16 :
    ([0x0000#16, 0x00FF#16, 0x2AAA#16, 0x7FFF#16, 0x8000#16, 0xFFFF#16] : List Word16).map
      (fun A => wordOut (.inc16 0 (.lit A))) =
    [0x0001#16, 0x0100#16, 0x2AAB#16, 0x8000#16, 0x8001#16, 0x0000#16].map (some ∘ Value.word) := by decide

/-- W1. -/
theorem test_mux16 :
    wordOut (.mux16 0 (.lit 0x1234#16) (.lit 0xABCD#16) (.lit false)) = some (.word 0x1234#16) ∧
    wordOut (.mux16 0 (.lit 0x1234#16) (.lit 0xABCD#16) (.lit true)) = some (.word 0xABCD#16) := by decide

/-- W2; and an illegal element of the word that is not selected (R303). -/
theorem test_mux16_illegal :
    faultOf (run1 true [(1, .rawBit 2#8)] (.mux16 0 (.lit 0x1234#16) (.lit 0xABCD#16) (.net 1))) =
      some (.domainError ⟨.mux16, ⟨.sel, none⟩, 2#8⟩) ∧
    faultOf (run1 true [(1, .rawWord (rawWith 0xABCD#16 15 9#8))] (.mux16 0 (.lit 0x1234#16) (.net 1) (.lit false))) =
      some (.domainError ⟨.mux16, ⟨.B, some 15⟩, 9#8⟩) := by decide

/-- W3, W4. -/
theorem test_not16_and16 :
    ([0x0000#16, 0x00FF#16, 0x1234#16] : List Word16).map (fun A => wordOut (.not16 0 (.lit A))) =
      [0xFFFF#16, 0xFF00#16, 0xEDCB#16].map (some ∘ Value.word) ∧
    ([(0xF0F0#16, 0x3C3C#16), (0x1234#16, 0x0000#16), (0x1234#16, 0xFFFF#16), (0x1234#16, 0x00FF#16)] :
      List (Word16 × Word16)).map (fun p => wordOut (.and16 0 (.lit p.1) (.lit p.2))) =
      [0x3030#16, 0x0000#16, 0x1234#16, 0x0034#16].map (some ∘ Value.word) := by decide

/-! The alu. -/

/-- One step on a control code's line, x and y driven: the values of out, zr and ng. -/
def codeStep (ctl : Nat) (x y : Word16) : List (Option Value) :=
  let o := step { State.reset with nets := [(0, .word x), (1, .word y)], lines := [codeNetLine ctl] }
  [valueOf o 2, valueOf o 3, valueOf o 4]

/-- A row of the table of section 2.6, at x = 0x1234, y = 0x00FF and at x = y = 0x0000. -/
def rowHolds (r : Nat × (Word16 × Bit × Bit) × (Word16 × Bit × Bit)) : Bool :=
  codeStep r.1 0x1234#16 0x00FF#16 = [some (.word r.2.1.1), some (.bit r.2.1.2.1), some (.bit r.2.1.2.2)] ∧
  codeStep r.1 0x0000#16 0x0000#16 = [some (.word r.2.2.1), some (.bit r.2.2.2.1), some (.bit r.2.2.2.2)]

/-- Section 2.6, rows 000000 to 000111. -/
theorem test_alu_codes_0 :
    [(0x00, (0x0034#16, false, false), (0x0000#16, true, false)),
     (0x01, (0xFFCB#16, false, true), (0xFFFF#16, false, true)),
     (0x02, (0x1333#16, false, false), (0x0000#16, true, false)),
     (0x03, (0xECCC#16, false, true), (0xFFFF#16, false, true)),
     (0x04, (0x1200#16, false, false), (0x0000#16, true, false)),
     (0x05, (0xEDFF#16, false, true), (0xFFFF#16, false, true)),
     (0x06, (0x1134#16, false, false), (0xFFFF#16, false, true)),
     (0x07, (0xEECB#16, false, true), (0x0000#16, true, false))].all rowHolds = true := by decide

/-- Section 2.6, rows 001000 to 001111. -/
theorem test_alu_codes_1 :
    [(0x08, (0x0000#16, true, false), (0x0000#16, true, false)),
     (0x09, (0xFFFF#16, false, true), (0xFFFF#16, false, true)),
     (0x0A, (0x1234#16, false, false), (0x0000#16, true, false)),
     (0x0B, (0xEDCB#16, false, true), (0xFFFF#16, false, true)),
     (0x0C, (0x1234#16, false, false), (0x0000#16, true, false)),
     (0x0D, (0xEDCB#16, false, true), (0xFFFF#16, false, true)),
     (0x0E, (0x1233#16, false, false), (0xFFFF#16, false, true)),
     (0x0F, (0xEDCC#16, false, true), (0x0000#16, true, false))].all rowHolds = true := by decide

/-- Section 2.6, rows 010000 to 010111. -/
theorem test_alu_codes_2 :
    [(0x10, (0x00CB#16, false, false), (0x0000#16, true, false)),
     (0x11, (0xFF34#16, false, true), (0xFFFF#16, false, true)),
     (0x12, (0xEECA#16, false, true), (0xFFFF#16, false, true)),
     (0x13, (0x1135#16, false, false), (0x0000#16, true, false)),
     (0x14, (0xED00#16, false, true), (0xFFFF#16, false, true)),
     (0x15, (0x12FF#16, false, false), (0x0000#16, true, false)),
     (0x16, (0xECCB#16, false, true), (0xFFFE#16, false, true)),
     (0x17, (0x1334#16, false, false), (0x0001#16, false, false))].all rowHolds = true := by decide

/-- Section 2.6, rows 011000 to 011111. -/
theorem test_alu_codes_3 :
    [(0x18, (0x0000#16, true, false), (0x0000#16, true, false)),
     (0x19, (0xFFFF#16, false, true), (0xFFFF#16, false, true)),
     (0x1A, (0xEDCB#16, false, true), (0xFFFF#16, false, true)),
     (0x1B, (0x1234#16, false, false), (0x0000#16, true, false)),
     (0x1C, (0xEDCB#16, false, true), (0xFFFF#16, false, true)),
     (0x1D, (0x1234#16, false, false), (0x0000#16, true, false)),
     (0x1E, (0xEDCA#16, false, true), (0xFFFE#16, false, true)),
     (0x1F, (0x1235#16, false, false), (0x0001#16, false, false))].all rowHolds = true := by decide

/-- Section 2.6, rows 100000 to 100111. -/
theorem test_alu_codes_4 :
    [(0x20, (0x0000#16, true, false), (0x0000#16, true, false)),
     (0x21, (0xFFFF#16, false, true), (0xFFFF#16, false, true)),
     (0x22, (0x00FF#16, false, false), (0x0000#16, true, false)),
     (0x23, (0xFF00#16, false, true), (0xFFFF#16, false, true)),
     (0x24, (0x0000#16, true, false), (0x0000#16, true, false)),
     (0x25, (0xFFFF#16, false, true), (0xFFFF#16, false, true)),
     (0x26, (0xFF00#16, false, true), (0xFFFF#16, false, true)),
     (0x27, (0x00FF#16, false, false), (0x0000#16, true, false))].all rowHolds = true := by decide

/-- Section 2.6, rows 101000 to 101111. -/
theorem test_alu_codes_5 :
    [(0x28, (0x0000#16, true, false), (0x0000#16, true, false)),
     (0x29, (0xFFFF#16, false, true), (0xFFFF#16, false, true)),
     (0x2A, (0x0000#16, true, false), (0x0000#16, true, false)),
     (0x2B, (0xFFFF#16, false, true), (0xFFFF#16, false, true)),
     (0x2C, (0x0000#16, true, false), (0x0000#16, true, false)),
     (0x2D, (0xFFFF#16, false, true), (0xFFFF#16, false, true)),
     (0x2E, (0xFFFF#16, false, true), (0xFFFF#16, false, true)),
     (0x2F, (0x0000#16, true, false), (0x0000#16, true, false))].all rowHolds = true := by decide

/-- Section 2.6, rows 110000 to 110111. -/
theorem test_alu_codes_6 :
    [(0x30, (0x00FF#16, false, false), (0x0000#16, true, false)),
     (0x31, (0xFF00#16, false, true), (0xFFFF#16, false, true)),
     (0x32, (0x00FE#16, false, false), (0xFFFF#16, false, true)),
     (0x33, (0xFF01#16, false, true), (0x0000#16, true, false)),
     (0x34, (0xFF00#16, false, true), (0xFFFF#16, false, true)),
     (0x35, (0x00FF#16, false, false), (0x0000#16, true, false)),
     (0x36, (0xFEFF#16, false, true), (0xFFFE#16, false, true)),
     (0x37, (0x0100#16, false, false), (0x0001#16, false, false))].all rowHolds = true := by decide

/-- Section 2.6, rows 111000 to 111111. -/
theorem test_alu_codes_7 :
    [(0x38, (0x0000#16, true, false), (0x0000#16, true, false)),
     (0x39, (0xFFFF#16, false, true), (0xFFFF#16, false, true)),
     (0x3A, (0xFFFF#16, false, true), (0xFFFF#16, false, true)),
     (0x3B, (0x0000#16, true, false), (0x0000#16, true, false)),
     (0x3C, (0xFFFF#16, false, true), (0xFFFF#16, false, true)),
     (0x3D, (0x0000#16, true, false), (0x0000#16, true, false)),
     (0x3E, (0xFFFE#16, false, true), (0xFFFE#16, false, true)),
     (0x3F, (0x0001#16, false, false), (0x0001#16, false, false))].all rowHolds = true := by decide

/-- V1, first item: f = 2; and its third: zx = 3. -/
theorem test_alu_illegal_control :
    faultOf (run1 true [(0, .rawBit 2#8)] (.alu ⟨1, none⟩ (.lit 0x1234#16) (.lit 0x0003#16) (.lit false) (.lit false)
      (.lit false) (.lit false) (.net 0) (.lit false))) = some (.domainError ⟨.alu, ⟨.f, none⟩, 2#8⟩) ∧
    faultOf (run1 true [(0, .rawBit 3#8)] (.alu ⟨1, none⟩ (.lit 0x1234#16) (.lit 0x0003#16) (.net 0) (.lit false)
      (.lit false) (.lit false) (.lit true) (.lit false))) = some (.domainError ⟨.alu, ⟨.zx, none⟩, 3#8⟩) := by decide

/-- V1, second item: x⟨3⟩ = 7 with zx = 1. -/
theorem test_alu_illegal_element_of_zeroed_x :
    faultOf (run1 true [(0, .rawWord (rawWith 0x1234#16 3 7#8))] (.alu101010 ⟨1, none⟩ (.net 0) (.lit 0x0003#16))) =
      some (.domainError ⟨.alu, ⟨.x, some 3⟩, 7#8⟩) := by decide

/-- V2. -/
theorem test_alu_add_overflow :
    codeStep 0x02 0x7FFF#16 0x0001#16 = [some (.word 0x8000#16), some (.bit false), some (.bit true)] ∧
    codeStep 0x02 0x8000#16 0x8000#16 = [some (.word 0x0000#16), some (.bit true), some (.bit false)] ∧
    codeStep 0x02 0xFFFF#16 0x0001#16 = [some (.word 0x0000#16), some (.bit true), some (.bit false)] := by decide

/-- V3. -/
theorem test_alu_negy_corner :
    codeStep 0x33 0x1234#16 0x8000#16 = [some (.word 0x8000#16), some (.bit false), some (.bit true)] ∧
    codeStep 0x33 0x1234#16 0x0000#16 = [some (.word 0x0000#16), some (.bit true), some (.bit false)] := by decide

/-- S6: the alu with its control ports wired as sources; 101000 is 0x0000 for any x, zr = 1 and ng = 0. -/
theorem test_alu_wired_controls :
    [3, 4, 5].map (valueOf (run1 false [(0, .bit true), (1, .bit false), (2, .word 0x1234#16)]
      (.alu ⟨3, some (4, 5)⟩ (.net 2) (.net 2) (.net 0) (.net 1) (.net 0) (.net 1) (.net 1) (.net 1)))) = [some (.word 0x0000#16), some (.bit true), some (.bit false)] := by decide

/-! Steps of the small programs of section 3, and the stops. -/

/-- P3, row (5, 9), its second line: m = MUX16(a, b, dn) with dn = 1. -/
theorem test_program_p3_second_line :
    valueOf (step { State.reset with
      nets := [(0, .word 0x0005#16), (1, .word 0x0009#16), (2, .word 0xFFFC#16), (3, .bit false), (4, .bit true)]
      lines := [⟨.cell .mux16, [5], [.net 0, .net 1, .net 4]⟩] }) 5 = some (.word 0x0009#16) := by decide

/-- The table word 0x3F as the first instruction from reset: the constant 0x0001 (R263). -/
theorem test_first_word_after_reset :
    valueOf (step (State.reset.withFetchWord 8 0x3F)) 0 = some (.word 0x0001#16) ∧
    valueOf (step (State.reset.withFetchWord 8 0x3F)) 1 = some (.bit false) ∧
    valueOf (step (State.reset.withFetchWord 8 0x3F)) 2 = some (.bit false) := by decide

/-- No line left (D15); and a line that is none. -/
theorem test_step_refuses :
    refusalOf (step State.reset) = some .runEnded ∧
    refusalOf (step (State.reset.load [⟨.cell .not, [], []⟩])) = some (.badLine .portCount) := by decide

/-- R318; R335; R81; R70; D2: each refusal by its name. -/
theorem test_exec_refuses :
    refusalOf (run1 false [] (.not 1 (.net 0))) = some (.undrivenInput .not) ∧
    refusalOf (run1 false [] (.not 0 (.net 0))) = some (.usedBeforeDefined .not) ∧
    refusalOf (run1 false [(0, .bit true)] (.not 0 (.net 0))) = some (.nameDefinedTwice .not) ∧
    refusalOf (run1 false [(0, .word 0#16)] (.not 1 (.net 0))) = some (.widthMismatch .not) ∧
    refusalOf (run1 false [(0, .rawBit 1#8)] (.not 1 (.net 0))) = some (.rawBitsOff .not) := by decide

/-- The map of names stays canonical whatever the order in which names are driven. -/
theorem test_nets_canonical :
    (State.reset.drive 5 (.bit true)).drive 2 (.bit false) = (State.reset.drive 2 (.bit false)).drive 5 (.bit true) ∧
    ((State.reset.drive 5 (.bit true)).drive 2 (.bit false)).nets.wf = true := by decide

/-! A change of an input (R331). Name 0 is driven 0x1234, and P1 of section 3 has been evaluated on it and on name 1. -/

/-- P1 after its one step, on its first row: a = b = 0x1234 (names 0 and 1), d = 0x0000, dz = 1, dn = 0 (names 2 to 4). -/
def p1Done : State :=
  { State.reset with
    nets := [(0, .word 0x1234#16), (1, .word 0x1234#16), (2, .word 0x0000#16), (3, .bit true), (4, .bit false)]
    evaluated := [codeNetLine 0x13] }

def nextOf (o : Outcome) : Option State :=
  match o with
  | .next t => some t
  | .fault _ => none
  | .refused _ => none

/-- One step moves the line of P1 to the evaluated ones. -/
theorem test_step_moves_its_line :
    nextOf (step { p1Done with nets := p1Done.nets.take 2, evaluated := [], lines := [codeNetLine 0x13] }) =
      some { p1Done with draws := 1 } := by decide

/-- With a changed to 0x0000, d, dz and dn have no value until P1's line is evaluated again, then those of the present
inputs: 0x0000 − 0x1234 is 0xEDCC, negative. With a driven to the value it has, nothing changes. -/
theorem test_changed_input :
    ((p1Done.drive 0 (.word 0x0000#16)).nets = [(0, .word 0x0000#16), (1, .word 0x1234#16)] ∧
      (p1Done.drive 0 (.word 0x0000#16)).lines = [codeNetLine 0x13]) ∧
    [2, 3, 4].map (valueOf (step (p1Done.drive 0 (.word 0x0000#16)))) =
      [some (.word 0xEDCC#16), some (.bit false), some (.bit true)] ∧
    p1Done.drive 0 (.word 0x1234#16) = p1Done := by decide

/-- With an input released, the line it reaches is refused until the input is driven again (R318). -/
theorem test_released_input :
    (p1Done.release 1).nets = [(0, .word 0x1234#16)] ∧
    refusalOf (step (p1Done.release 1)) = some (.undrivenInput .alu) := by decide

/-- A change reaches a line through the output of another, and leaves the lines it does not reach. -/
theorem test_change_reaches_through_outputs :
    splitStale [0] [encode (.not 4 (.net 0)), encode (.not 5 (.net 1)), encode (.and 6 (.net 4) (.net 1))] =
      ([encode (.not 5 (.net 1))], [encode (.not 4 (.net 0)), encode (.and 6 (.net 4) (.net 1))]) := by decide

/-! WITNESSES: for every obligation with hypotheses, a state and operands that meet them together. -/

/-- Bits 1 and 0 on names 0 and 1, words on 2 and 3; names from 4 on are new. -/
def good : State :=
  { State.reset with nets := [(0, .bit true), (1, .bit false), (2, .word 0xFFFF#16), (3, .word 0x0001#16)] }

/-- RAW_BITS on: the least and the greatest illegal byte, the legal bytes 0 and 1, and words with an illegal element at the
first and at the last source index. -/
def raw : State :=
  { State.reset with
    rawBits := true
    nets := [(0, .rawBit 2#8), (1, .rawBit 255#8), (2, .rawBit 0#8), (3, .rawBit 1#8),
      (4, .rawWord (rawWith 0x1234#16 0 2#8)), (5, .rawWord (rawWith 0x1234#16 15 255#8)), (6, .word 0x8000#16)] }

theorem presentsBit_net {s : State} {n : Name} {b : Bit} (h : s.nets.get n = some (.bit b)) : PresentsBit s (.net n) b :=
  Or.inr ⟨n, rfl, Or.inl ⟨b, h, rfl⟩⟩

theorem presentsByte_raw {s : State} {n : Name} {v : Byte} (hr : s.rawBits = true) (h : s.nets.get n = some (.rawBit v)) :
    PresentsByte s (.net n) v := Or.inr ⟨n, rfl, Or.inr ⟨hr, h⟩⟩

theorem presentsByte_lit (s : State) (b : Bit) : PresentsByte s (.lit b) (Byte.ofBit b) := Or.inl ⟨b, rfl, rfl⟩

theorem presentsWord_net {s : State} {n : Name} {w : Word16} (h : s.nets.get n = some (.word w)) :
    PresentsWord s (.net n) w := Or.inr ⟨n, rfl, Or.inl ⟨w, h, fun _ => rfl⟩⟩

theorem presentsWord_lit (s : State) (w : Word16) : PresentsWord s (.lit w) w := Or.inl ⟨w, rfl, fun _ => rfl⟩

theorem presentsElems_raw {s : State} {n : Name} {r : RawWord} (hr : s.rawBits = true)
    (h : s.nets.get n = some (.rawWord r)) : PresentsElems s (.net n) (fun i => r[i]) :=
  Or.inr ⟨n, rfl, Or.inr ⟨hr, r, h, fun _ => rfl⟩⟩

theorem newNames_of {s : State} {ns : List Name} (h : destsFree s ns = true) : NewNames s ns := by
  simpa [destsFree, NewNames] using h

theorem witness_StepEvaluatesDecodedLine :
    (∃ (s : State) (l : Line) (ls : List Line) (i : Instr), s.lines = l :: ls ∧ decode l = .ok i) ∧
    (∃ (s : State) (l : Line) (ls : List Line) (e : DecodeError), s.lines = l :: ls ∧ decode l = .error e) ∧
    ∃ s : State, s.lines = [] :=
  ⟨⟨good.load [encode (.not 4 (.net 0))], _, _, .not 4 (.net 0), rfl, rfl⟩,
    ⟨good.load [codeNetLine 0x40], _, _, .controlCode, rfl, rfl⟩, good, rfl⟩

theorem witness_DecodableLineIsCanonical :
    ∃ (l : Line) (i : Instr), decode l = .ok i ∧ ∀ p, l.sel ≠ .pseudo p :=
  ⟨codeNetLine 0x3F, .alu111111 codeDest (.net 0) (.net 1), rfl, fun _ h => nomatch h⟩

/-- The greatest code of six bits, and the least byte that is none. -/
theorem witness_EveryControlCodeDecodes :
    (∃ (c c' : BitVec 6) (d : AluDest) (x y : WordSrc), c = 63#6 ∧ Instr.ofCode c d x y = Instr.ofCode c' d x y) ∧
    ∃ b : Byte, b = 64#8 ∧ 64 ≤ b.toNat :=
  ⟨⟨63#6, 63#6, codeDest, .net 2, .net 3, rfl, rfl⟩, 64#8, rfl, by decide⟩

/-- Of GateTruthTables: legal Bits of both values; the illegal bytes 2 and 255. -/
theorem witness_GateTruthTables :
    (PresentsBit good (.net 0) true ∧ PresentsBit good (.net 1) false ∧ NewNames good [4]) ∧
    (PresentsByte raw (.net 0) 2#8 ∧ PresentsByte raw (.net 1) 255#8 ∧ NewNames raw [7] ∧ 1#8 < (2#8 : Byte) ∧
      1#8 < (255#8 : Byte)) :=
  ⟨⟨presentsBit_net rfl, presentsBit_net rfl, newNames_of rfl⟩, presentsByte_raw rfl rfl, presentsByte_raw rfl rfl,
    newNames_of rfl, by decide, by decide⟩

/-- On the raw interface a legal Bit may be a byte too. -/
theorem witness_raw_legal_bits : PresentsBit raw (.net 2) false ∧ PresentsBit raw (.net 3) true :=
  ⟨presentsByte_raw rfl rfl, presentsByte_raw rfl rfl⟩

theorem witness_HalfAdderSumAndCarry :
    (PresentsBit good (.net 0) true ∧ PresentsBit good (.lit true) true ∧ NewNames good [4, 5]) ∧
    (PresentsByte raw (.net 2) 0#8 ∧ PresentsByte raw (.net 0) 2#8 ∧ NewNames raw [7, 8] ∧
      (1#8 < (0#8 : Byte) ∨ 1#8 < (2#8 : Byte))) :=
  ⟨⟨presentsBit_net rfl, presentsByte_lit _ _, newNames_of rfl⟩, presentsByte_raw rfl rfl, presentsByte_raw rfl rfl,
    newNames_of rfl, by decide⟩

theorem witness_FullAdderSumAndMajority :
    (PresentsBit good (.net 0) true ∧ PresentsBit good (.net 1) false ∧ PresentsBit good (.lit true) true ∧
      NewNames good [4, 5]) ∧
    (PresentsByte raw (.net 2) 0#8 ∧ PresentsByte raw (.net 3) 1#8 ∧ PresentsByte raw (.net 1) 255#8 ∧
      NewNames raw [7, 8] ∧ (1#8 < (0#8 : Byte) ∨ 1#8 < (1#8 : Byte) ∨ 1#8 < (255#8 : Byte))) :=
  ⟨⟨presentsBit_net rfl, presentsBit_net rfl, presentsByte_lit _ _, newNames_of rfl⟩, presentsByte_raw rfl rfl,
    presentsByte_raw rfl rfl, presentsByte_raw rfl rfl, newNames_of rfl, by decide⟩

/-- Two words, and raw words with an illegal element at source index 0 and at 15: the hypotheses of
Adder16ComputesSumModulo, Inc16AddsOne and Not16AndAnd16AreBitwise. -/
theorem witness_Adder16ComputesSumModulo :
    (PresentsWord good (.net 2) 0xFFFF#16 ∧ PresentsWord good (.net 3) 0x0001#16 ∧ NewNames good [4]) ∧
    (PresentsElems raw (.net 4) (fun i => (rawWith 0x1234#16 0 2#8)[i]) ∧
      PresentsElems raw (.net 5) (fun i => (rawWith 0x1234#16 15 255#8)[i]) ∧ NewNames raw [7] ∧
      ((∃ i : Fin 16, 1#8 < (rawWith 0x1234#16 0 2#8)[i]) ∨ ∃ i : Fin 16, 1#8 < (rawWith 0x1234#16 15 255#8)[i])) :=
  ⟨⟨presentsWord_net rfl, presentsWord_net rfl, newNames_of rfl⟩, presentsElems_raw rfl rfl, presentsElems_raw rfl rfl,
    newNames_of rfl, Or.inr ⟨15, by decide⟩⟩

theorem witness_Inc16AddsOne :
    (PresentsWord good (.net 2) 0xFFFF#16 ∧ NewNames good [4]) ∧
    (PresentsElems raw (.net 4) (fun i => (rawWith 0x1234#16 0 2#8)[i]) ∧ NewNames raw [7] ∧
      ∃ i : Fin 16, 1#8 < (rawWith 0x1234#16 0 2#8)[i]) :=
  ⟨⟨presentsWord_net rfl, newNames_of rfl⟩, presentsElems_raw rfl rfl, newNames_of rfl, 0, by decide⟩

theorem witness_Mux16SelectsWholeWord :
    (PresentsWord good (.net 2) 0xFFFF#16 ∧ PresentsWord good (.net 3) 0x0001#16 ∧ PresentsBit good (.net 0) true ∧
      NewNames good [4]) ∧
    (PresentsWord raw (.net 6) 0x8000#16 ∧ PresentsElems raw (.net 5) (fun i => (rawWith 0x1234#16 15 255#8)[i]) ∧
      PresentsByte raw (.net 2) 0#8 ∧ NewNames raw [7] ∧ ∃ i : Fin 16, 1#8 < (rawWith 0x1234#16 15 255#8)[i]) :=
  ⟨⟨presentsWord_net rfl, presentsWord_net rfl, presentsBit_net rfl, newNames_of rfl⟩, presentsWord_net rfl,
    presentsElems_raw rfl rfl, presentsByte_raw rfl rfl, newNames_of rfl, 15, by decide⟩

theorem witness_Not16AndAnd16AreBitwise :
    (PresentsWord good (.net 2) 0xFFFF#16 ∧ PresentsWord good (.net 3) 0x0001#16 ∧ NewNames good [4]) ∧
    (PresentsElems raw (.net 4) (fun i => (rawWith 0x1234#16 0 2#8)[i]) ∧ PresentsWord raw (.net 6) 0x8000#16 ∧
      NewNames raw [7] ∧ ∃ i : Fin 16, 1#8 < (rawWith 0x1234#16 0 2#8)[i]) ∧ (15 : Nat) < 16 :=
  ⟨⟨presentsWord_net rfl, presentsWord_net rfl, newNames_of rfl⟩,
    ⟨presentsElems_raw rfl rfl, presentsWord_net rfl, newNames_of rfl, 0, by decide⟩, by decide⟩

/-- Words that agree below position 15 and differ at it, at k = 14. -/
theorem witness_BitPositionsStayInPlace :
    ∃ (A A' B B' : Word16) (k : Nat), k < 16 ∧ A ≠ A' ∧ A.getLsbD k = A'.getLsbD k ∧ B.getLsbD k = B'.getLsbD k ∧
      ∀ j, j < k → A.getLsbD j = A'.getLsbD j ∧ B.getLsbD j = B'.getLsbD j :=
  ⟨0x1234#16, 0x9234#16, 0x00FF#16, 0x80FF#16, 14, by decide, by decide, by decide, by decide, by decide⟩

theorem witness_AluPipelineWithWiredControls :
    (PresentsWord good (.net 2) 0xFFFF#16 ∧ PresentsWord good (.net 3) 0x0001#16 ∧ PresentsBit good (.net 0) true ∧
      PresentsBit good (.net 1) false ∧ NewNames good (AluDest.names ⟨4, some (5, 6)⟩) ∧
      NewNames good (AluDest.names ⟨4, none⟩)) ∧
    (PresentsWord raw (.net 6) 0x8000#16 ∧ PresentsByte raw (.net 2) 0#8 ∧ PresentsByte raw (.net 3) 1#8 ∧
      PresentsByte raw (.net 0) 2#8 ∧ NewNames raw (AluDest.names ⟨7, some (8, 9)⟩) ∧ 1#8 < (2#8 : Byte)) :=
  ⟨⟨presentsWord_net rfl, presentsWord_net rfl, presentsBit_net rfl, presentsBit_net rfl, newNames_of rfl, newNames_of rfl⟩,
    presentsWord_net rfl, presentsByte_raw rfl rfl, presentsByte_raw rfl rfl, presentsByte_raw rfl rfl, newNames_of rfl,
    by decide⟩

/-- The hypotheses of CodeRule and PseudoRule: the eight statements AluCodes… and PseudoInstructionsExpand. -/
theorem witness_CodeRule :
    (PresentsWord good (.net 2) 0xFFFF#16 ∧ PresentsWord good (.lit 0x0001#16) 0x0001#16 ∧
      NewNames good (AluDest.names ⟨4, some (5, 6)⟩)) ∧
    (PresentsElems raw (.net 4) (fun i => (rawWith 0x1234#16 0 2#8)[i]) ∧ PresentsWord raw (.net 6) 0x8000#16 ∧
      NewNames raw (AluDest.names ⟨7, some (8, 9)⟩) ∧ ∃ i : Fin 16, 1#8 < (rawWith 0x1234#16 0 2#8)[i]) :=
  ⟨⟨presentsWord_net rfl, presentsWord_lit _ _, newNames_of rfl⟩, presentsElems_raw rfl rfl, presentsWord_net rfl,
    newNames_of rfl, 0, by decide⟩

theorem witness_AluFlagsFollowOut :
    ∃ (i : Instr) (o z n : Name) (t : State), i.cell = .alu ∧ i.dests = [o, z, n] ∧ exec i good = .next t :=
  ⟨.alu000010 ⟨4, some (5, 6)⟩ (.net 2) (.net 3), 4, 5, 6, _, rfl, rfl, rfl⟩

theorem witness_OverflowIsWraparound :
    PresentsWord good (.net 2) 0xFFFF#16 ∧ PresentsWord good (.net 3) 0x0001#16 ∧ NewNames good [4] :=
  ⟨presentsWord_net rfl, presentsWord_net rfl, newNames_of rfl⟩

theorem inputsDriven_good : InputsDriven good (.and 4 (.net 0) (.net 1)) := by
  intro p hp
  simp only [Instr.ports, Instr.parts, List.mem_cons, List.not_mem_nil, or_false] at hp
  rcases hp with rfl | rfl
  · exact ⟨.bit true, rfl, rfl, fun h => nomatch h⟩
  · exact ⟨.bit false, rfl, rfl, fun h => nomatch h⟩

theorem inputsDriven_raw : InputsDriven raw (.and 7 (.net 0) (.net 3)) := by
  intro p hp
  simp only [Instr.ports, Instr.parts, List.mem_cons, List.not_mem_nil, or_false] at hp
  rcases hp with rfl | rfl
  · exact ⟨.rawBit 2#8, rfl, rfl, fun _ => rfl⟩
  · exact ⟨.rawBit 1#8, rfl, rfl, fun _ => rfl⟩

theorem illegalInput_raw : IllegalInput raw (.and 7 (.net 0) (.net 3)) ⟨.and, ⟨.a, none⟩, 2#8⟩ :=
  ⟨rfl, by decide, bitPort .a (.net 0), List.mem_cons_self .., rfl, 0, rfl, Or.inl ⟨rfl, rfl⟩⟩

theorem noIllegalInput_good (info : DomainInfo) : ¬IllegalInput good (.and 4 (.net 0) (.net 1)) info := by
  rintro ⟨_, _, p, hp, _, n, hn, h⟩
  simp only [Instr.ports, Instr.parts, List.mem_cons, List.not_mem_nil, or_false] at hp
  rcases hp with rfl | rfl <;> cases hn <;> rcases h with ⟨h, _⟩ | ⟨_, _, h, _⟩ <;> cases h

theorem witness_EdgeCheckDecidesOutcome :
    (∃ (i : Instr) (s : State), InputsDriven s i ∧ NewNames s i.dests ∧ ∀ info, ¬IllegalInput s i info) ∧
    ∃ (i : Instr) (s : State), InputsDriven s i ∧ NewNames s i.dests ∧ ∃ info, IllegalInput s i info :=
  ⟨⟨_, _, inputsDriven_good, newNames_of rfl, noIllegalInput_good⟩, _, _, inputsDriven_raw, newNames_of rfl, _,
    illegalInput_raw⟩

theorem witness_DomainErrorOnlyFromIllegalInput : ∃ (i : Instr) (s : State) (f : Fault), exec i s = .fault f :=
  ⟨.and 7 (.net 0) (.net 3), raw, _, rfl⟩

theorem witness_TwoValuedInterfaceAlwaysOk :
    ∃ (s : State) (i : Instr), s.rawBits = false ∧ InputsDriven s i ∧ NewNames s i.dests :=
  ⟨good, _, rfl, inputsDriven_good, newNames_of rfl⟩

/-- One port at fault for each named reason, the other driven: name 7 driven by nothing and defined by no line, name 2 of the
other width, and name 2 raw where RAW_BITS is off. -/
theorem witness_UndrivenInputHasNoOutcome :
    (∃ (i : Instr) (s : State), (∃ p ∈ i.ports, ¬PortDriven s p) ∧
      ∀ p ∈ i.ports, PortDriven s p ∨ ∃ m, p.src = .net m ∧ s.nets.get m = none ∧ m ∉ i.dests ∧
        ∀ l ∈ s.lines, m ∉ l.outs) ∧
    (∃ (i : Instr) (s : State), (∃ p ∈ i.ports, ¬PortDriven s p) ∧
      ∀ p ∈ i.ports, PortDriven s p ∨ ∃ m v, p.src = .net m ∧ s.nets.get m = some v ∧ v.width ≠ p.width) ∧
    ∃ (i : Instr) (s : State), (∃ p ∈ i.ports, ¬PortDriven s p) ∧
      ∀ p ∈ i.ports, PortDriven s p ∨ ∃ m v, p.src = .net m ∧ s.nets.get m = some v ∧ v.width = p.width ∧
        v.isRaw = true ∧ s.rawBits = false := by
  refine ⟨⟨.and 4 (.net 0) (.net 7), good,
      ⟨bitPort .b (.net 7), by decide, fun h => by obtain ⟨v, h, _⟩ := h; cases h⟩, fun p hp => ?_⟩,
    ⟨.and 4 (.net 0) (.net 2), good,
      ⟨bitPort .b (.net 2), by decide, fun h => by obtain ⟨v, h, hw, _⟩ := h; cases h; cases hw⟩, fun p hp => ?_⟩,
    .and 4 (.net 0) (.net 2), good.drive 2 (.rawBit 1#8),
      ⟨bitPort .b (.net 2), by decide, fun h => by obtain ⟨v, h, _, hr⟩ := h; cases h; cases hr rfl⟩, fun p hp => ?_⟩
  all_goals
    simp only [Instr.ports, Instr.parts, List.mem_cons, List.not_mem_nil, or_false] at hp
    rcases hp with rfl | rfl
    · exact Or.inl ⟨.bit true, rfl, rfl, fun h => nomatch h⟩
  · exact Or.inr ⟨7, rfl, rfl, by decide, by decide⟩
  · exact Or.inr ⟨2, .word 0xFFFF#16, rfl, rfl, by decide⟩
  · exact Or.inr ⟨2, .rawBit 1#8, rfl, rfl, rfl, rfl, rfl⟩

/-- Each of those reasons, as the instruction answers it. -/
theorem test_exec_refuses_second_port :
    refusalOf (exec (.and 4 (.net 0) (.net 7)) good) = some (.undrivenInput .and) ∧
    refusalOf (exec (.and 4 (.net 0) (.net 2)) good) = some (.widthMismatch .and) ∧
    refusalOf (exec (.and 4 (.net 0) (.net 2)) (good.drive 2 (.rawBit 1#8))) = some (.rawBitsOff .and) := by decide

/-- Feedback through the instruction itself, and a name that a later line defines. -/
theorem witness_FeedbackIsRefused :
    (∃ i : Instr, i.noFeedback = false) ∧
    ∃ (i : Instr) (s : State), (∃ p ∈ i.ports, ¬PortDriven s p) ∧
      ∀ p ∈ i.ports, PortDriven s p ∨ ∃ m, p.src = .net m ∧ s.nets.get m = none ∧
        (m ∈ i.dests ∨ ∃ l ∈ s.lines, m ∈ l.outs) := by
  refine ⟨⟨.nand 4 (.net 0) (.net 4), rfl⟩, .and 4 (.net 0) (.net 7), good.load [encode (.not 7 (.net 1))],
    ⟨bitPort .b (.net 7), by decide, fun h => by obtain ⟨v, h, _⟩ := h; cases h⟩, fun p hp => ?_⟩
  simp only [Instr.ports, Instr.parts, List.mem_cons, List.not_mem_nil, or_false] at hp
  rcases hp with rfl | rfl
  · exact Or.inl ⟨.bit true, rfl, rfl, fun h => nomatch h⟩
  · exact Or.inr ⟨7, rfl, rfl, Or.inr (by decide)⟩

/-- Name 3 is driven already; and two outputs with one name. -/
theorem witness_NamesAreSingleAssignment :
    (∃ (i : Instr) (s : State), ¬NewNames s i.dests ∧ InputsDriven s i) ∧
    ∃ (i : Instr) (s : State), i.dests = [4, 4] ∧ ¬NewNames s i.dests := by
  refine ⟨⟨.and 3 (.net 0) (.net 1), good, fun h => ?_, inputsDriven_good⟩, .halfAdder 4 4 (.net 0) (.net 1), good, rfl,
    fun h => ?_⟩
  · have := h.2 3 (by decide); cases this
  · exact absurd h.1 (by decide)

theorem witness_EvaluationChangesOnlyItsOutputs : ∃ (i : Instr) (s t : State), exec i s = .next t :=
  ⟨.fullAdder 4 5 (.net 0) (.net 1) (.lit true), good, _, rfl⟩

theorem witness_StepTakesOneLineOff :
    ∃ (s t : State) (n : Name) (v : Value), step s = .next t ∧ s.nets.get n = some v :=
  ⟨good.load [encode (.not 4 (.net 0)), encode (.not 5 (.net 4))], _, 0, .bit true, rfl, rfl⟩

/-- Two states that differ in a name the instruction does not use: Ok; a DomainError with exactly one illegal input Bit; and
a DomainError with two. -/
theorem witness_OutcomeDependsOnOwnInputsAlone :
    (∃ (i : Instr) (s t s' : State), s ≠ t ∧ SameInputs s t i ∧ NewNames s i.dests ∧ NewNames t i.dests ∧
      exec i s = .next s') ∧
    (∃ (i : Instr) (s t : State) (info : DomainInfo), s ≠ t ∧ SameInputs s t i ∧ NewNames s i.dests ∧
      NewNames t i.dests ∧ exec i s = .fault (.domainError info) ∧ ∀ other, IllegalInput s i other → other = info) ∧
    ∃ (i : Instr) (s t : State) (info : DomainInfo), i.uses = [0, 1] ∧ s ≠ t ∧ SameInputs s t i ∧
      NewNames s i.dests ∧ NewNames t i.dests ∧ exec i t = .fault (.domainError info) := by
  refine ⟨⟨.not 4 (.net 0), good, good.drive 9 (.bit true), _, by decide, ⟨rfl, by decide⟩, newNames_of rfl,
      newNames_of rfl, rfl⟩,
    ⟨.not 7 (.net 0), raw, raw.drive 9 (.bit true), ⟨.not, ⟨.a, none⟩, 2#8⟩, by decide, ⟨rfl, by decide⟩,
      newNames_of rfl, newNames_of rfl, rfl, ?_⟩,
    .and 7 (.net 0) (.net 1), raw, raw.drive 9 (.bit true), _, rfl, by decide, ⟨rfl, by decide⟩, newNames_of rfl,
      newNames_of rfl, rfl⟩
  rintro ⟨u, ⟨po, el⟩, v⟩ ⟨hu, _, p, hp, hport, n, hn, h⟩
  simp only [Instr.ports, Instr.parts, List.mem_cons, List.not_mem_nil, or_false] at hp
  subst hp
  cases hn; cases hu; cases hport
  rcases h with ⟨h, he⟩ | ⟨_, _, h, _⟩
  · cases h; cases he; rfl
  · cases h

theorem witness_EvaluationOrderDoesNotMatter :
    ∃ (i j : Instr) (s u t : State), s.nets.wf = true ∧ exec i s = .next u ∧ exec j u = .next t ∧
      ∀ n ∈ j.uses, n ∉ i.dests :=
  ⟨.not 5 (.net 0), .not 4 (.net 1), good, _, _, rfl, rfl, rfl, by decide⟩

theorem witness_StepKeepsRunInvariant : ∃ s t : State, s.Inv ∧ step s = .next t :=
  ⟨good.load [encode (.not 4 (.net 0))], _, ⟨rfl, rfl, rfl⟩, rfl⟩

/-- A legal state on the raw interface: the bytes 0 and 1. -/
theorem witness_LegalRunHasNoDomainError :
    ∃ s : State, s.legal = true ∧ s.rawBits = true ∧ s.nets.get 0 = some (.rawBit 1#8) :=
  ⟨{ State.reset with rawBits := true, nets := [(0, .rawBit 1#8), (1, .rawBit 0#8)] }, rfl, rfl, rfl⟩

/-- P3 of section 3 over two words, its first line written as the pseudo-instruction SUB (R82); and the empty netlist. -/
theorem witness_WellFormedNetlistRunsToItsEnd :
    (∃ (is : List Instr) (s : State), is.length = 2 ∧ s.lines ≠ is.map encode ∧ s.Inv ∧
      s.lines.map decode = is.map Except.ok ∧ Netlist.wellFormed s.types is = true) ∧
    ∃ s : State, s.Inv ∧ s.lines.map decode = ([] : List Instr).map Except.ok ∧
      Netlist.wellFormed s.types [] = true :=
  ⟨⟨[.alu010011 ⟨4, some (5, 6)⟩ (.net 2) (.net 3), .mux16 7 (.net 2) (.net 3) (.net 6)],
    good.load [⟨.pseudo .sub, [4, 5, 6], [.net 2, .net 3]⟩, encode (.mux16 7 (.net 2) (.net 3) (.net 6))],
    rfl, by decide, ⟨rfl, rfl, rfl⟩, rfl, rfl⟩, good, ⟨rfl, rfl, rfl⟩, rfl, rfl⟩

theorem witness_CompletedNetlistWasWellFormed :
    ∃ s t : State, s.lines.length = 2 ∧ Host.Core.run Sys2Proof.core s.lines.length s = .next t :=
  ⟨good.load [encode (.not 4 (.net 0)), encode (.and 5 (.net 4) (.net 1))], _, rfl, rfl⟩

/-- One evaluated line, settled, and one to come. -/
def half : State :=
  { good with
    nets := [(0, .bit true), (1, .bit false), (4, .bit false)]
    evaluated := [encode (.not 4 (.net 0))]
    lines := [encode (.not 5 (.net 4))] }

theorem half_settled : half.Settled := by
  refine ⟨fun l hl => ?_, List.pairwise_singleton ..⟩
  rw [List.mem_singleton.mp hl]
  exact ⟨.not 4 (.net 0), _, rfl, rfl, by decide⟩

theorem witness_OutputsFollowPresentInputs :
    (∃ s t : State, s.evaluated.length = 1 ∧ s.Settled ∧ step s = .next t) ∧
    ∃ (s : State) (n : Name) (v : Value), s.Settled ∧ s.nets.get n ≠ some v :=
  ⟨⟨half, _, rfl, half_settled, rfl⟩, half, 0, .bit false, half_settled, by decide⟩

/-- The value it carries, and another, on an input that an evaluated line uses. -/
theorem witness_ChangedInputUndefinesItsOutputs :
    (∃ (s : State) (n : Name) (v : Value), s.nets.get n = some v) ∧
    ∃ (s : State) (n m : Name) (v : Value) (l : Line), s.nets.get n ≠ some v ∧ l ∈ s.evaluated ∧ n ∈ l.uses ∧
      m ∈ l.outs ∧ m ≠ n ∧ s.Settled :=
  ⟨⟨half, 0, .bit true, rfl⟩, half, 0, 4, .bit false, encode (.not 4 (.net 0)), by decide, by decide, by decide, by decide,
    by decide, half_settled⟩

theorem witness_NoEarlierInputAffectsTheEnd :
    ∃ (s u t : State) (n : Name) (v : Value), u.nets.get n ≠ some v ∧ s.Settled ∧
      Host.Core.run Sys2Proof.core s.lines.length s = .next u ∧
      Host.Core.run Sys2Proof.core (u.drive n v).lines.length (u.drive n v) = .next t :=
  ⟨half, _, _, 0, .bit false, by decide, half_settled, rfl, rfl⟩

end Sys2Proof.Tests
end

section
/-! The readings of a Word16 (R12): the unsigned value from its bits, and the two's-complement value. -/

namespace Sys2Proof

/-- The n low bits of a number, each with its weight, sum to its residue modulo 2^n. -/
theorem sum_testBit_range (x n : Nat) :
    ((List.range n).map fun k => (x.testBit k).toNat * 2 ^ k).sum = x % 2 ^ n := by
  induction n with
  | zero => simp [Nat.mod_one]
  | succ n ih =>
    rw [List.range_succ, List.map_append, List.sum_append, ih, Nat.mod_pow_succ, ← Nat.toNat_testBit]
    simp [Nat.mul_comm]

theorem Word16.val_lt (W : Word16) : Word16.val W < 65536 := W.isLt

theorem Word16.val_eq_sum (W : Word16) :
    Word16.val W = ((List.range 16).map fun k => (W.getLsbD k).toNat * 2 ^ k).sum :=
  calc Word16.val W = W.toNat % 2 ^ 16 := (Nat.mod_eq_of_lt W.isLt).symm
    _ = _ := (sum_testBit_range W.toNat 16).symm

theorem Word16.sval_eq_val_sub (W : Word16) :
    Word16.sval W = (Word16.val W : Int) - 65536 * ((W.getLsbD 15).toNat : Int) := by
  unfold Word16.sval Word16.val
  cases W.getLsbD 15 <;> rfl

/-- The model's two's-complement reading is the library's. -/
theorem Word16.sval_eq_toInt (W : Word16) : Word16.sval W = W.toInt := by
  rw [BitVec.toInt_eq_msb_cond, BitVec.msb_eq_getLsbD_last]
  unfold Word16.sval
  cases W.getLsbD 15 <;> simp

theorem Word16.le_sval (W : Word16) : -32768 ≤ Word16.sval W :=
  W.sval_eq_toInt ▸ BitVec.le_toInt W

theorem Word16.sval_le (W : Word16) : Word16.sval W ≤ 32767 :=
  Int.le_of_lt_add_one (W.sval_eq_toInt ▸ BitVec.toInt_lt)

/-- Settles O36: the bit sum by induction on the width, the signed range through `BitVec.toInt`. -/
theorem wordNotation : Obligations.WordNotation := fun W =>
  ⟨fun _ => rfl, Word16.val_eq_sum W, Word16.val_lt W, Word16.sval_eq_val_sub W, Word16.le_sval W, Word16.sval_le W⟩

end Sys2Proof
end

section
/-! The frame of an instruction that answers a next state (R38): its outputs are new names, so none of them is an input. -/

namespace Sys2Proof.Machine

/-- A name that a ready port is wired to carries a value. -/
theorem PortReady.net_driven {s : State} {p : PortUse} {n : Name} (h : PortReady s p) (hn : p.src = .net n) :
    s.nets.get n ≠ none := by
  obtain ⟨v, hv, -, -⟩ := h
  rw [hn] at hv
  exact Option.ne_none_iff_exists'.mpr ⟨v, hv⟩

/-- No output of an instruction drives an input of it (R38): the one must be undriven, the other driven. -/
theorem not_mem_dests_of_mem_uses {s : State} {i : Instr} {n : Name} (hp : ∀ p ∈ i.ports, PortReady s p)
    (hnew : NewNames s i.dests) (hu : n ∈ i.uses) : n ∉ i.dests := by
  obtain ⟨p, hmem, hsrc⟩ := (mem_uses_iff i n).mp hu
  exact fun hd => (hp p hmem).net_driven hsrc (hnew.2 n hd)

/-- After a commit of distinct names, each of them carries its value with the width and the legality it was given. -/
theorem commit_defs {s : State} {outs : List (Name × Value)} (hd : (outs.map Prod.fst).Nodup)
    (ho : ∀ o ∈ outs, o.2.isLegal = true ∧ o.2.isRaw = false) {p : Name × Width}
    (hp : p ∈ outs.map fun o => (o.1, o.2.width)) :
    ∃ v, (s.commit outs).nets.get p.1 = some v ∧ v.width = p.2 ∧ v.isLegal = true ∧ v.isRaw = false := by
  obtain ⟨o, hmem, rfl⟩ := List.mem_map.mp hp
  exact ⟨o.2, get_setAll_mem s.nets hd hmem, rfl, ho o hmem⟩

/-- Settles O43: a next state is the commit of legal outputs to new names, and an input is no new name. -/
theorem evaluationChangesOnlyItsOutputs : Obligations.EvaluationChangesOnlyItsOutputs := by
  intro i s t h
  obtain ⟨outs, hdests, hdefs, hlegal, hports, hnew, -, rfl⟩ := exec_eq_next h
  have frame : ∀ n, n ∉ i.dests → (s.commit outs).nets.get n = s.nets.get n := fun n hn =>
    get_setAll_other s.nets (hdests ▸ hn)
  have apart : ∀ n ∈ i.uses, n ∉ i.dests := fun n hu => not_mem_dests_of_mem_uses hports hnew hu
  exact ⟨hnew.2, fun p hp => commit_defs (hdests ▸ hnew.1) hlegal (hdefs ▸ hp), frame,
    fun n hu => ⟨apart n hu, frame n (apart n hu)⟩, rfl, rfl, rfl⟩

end Sys2Proof.Machine
end

section
/-! What an instruction answers depends on what its own inputs present and on nothing else (R54, R57): which illegal input a
DomainError names, where there are several, is the one thing left to the draw (R306). -/

namespace Sys2Proof.Machine

theorem SameInputs.symm {s t : State} {i : Instr} (h : SameInputs s t i) : SameInputs t s i :=
  ⟨h.1.symm, fun n hn => (h.2 n hn).symm⟩

theorem SameInputs.illegalInput_iff {s t : State} {i : Instr} (h : SameInputs s t i) (info : DomainInfo) :
    IllegalInput s i info ↔ IllegalInput t i info := by
  rw [← mem_illegalInputs_iff, ← mem_illegalInputs_iff, h.illegalInputs_eq]

/-- An instruction that is a DomainError has its ports ready, and the info is that of an illegal input. -/
theorem exec_eq_fault {i : Instr} {s : State} {f : Fault} (h : exec i s = .fault f) :
    (∀ p ∈ i.ports, PortReady s p) ∧ ∃ info, f = .domainError info ∧ IllegalInput s i info := by
  obtain ⟨outs, he, -⟩ := exec_eq_evaluate i s
  obtain ⟨hp, -, info, hmem, hf⟩ := evaluate_eq_fault (he ▸ h)
  exact ⟨hp, info, hf, (mem_illegalInputs_iff s i info).mp hmem⟩

/-- An instruction with an illegal input, otherwise ready, is a DomainError that names one. -/
theorem exec_fails {i : Instr} {s : State} {info : DomainInfo} (hp : ∀ p ∈ i.ports, PortReady s p)
    (hn : NewNames s i.dests) (hi : IllegalInput s i info) : FailsWith (exec i s) (IllegalInput s i) := by
  obtain ⟨outs, he, hd, -⟩ := exec_eq_evaluate i s
  have hne : illegalInputs s i.cell i.ports ≠ [] := List.ne_nil_of_mem ((mem_illegalInputs_iff s i info).mpr hi)
  obtain ⟨info', hf, hmem⟩ := evaluate_fails (outs := outs) hp (hd ▸ hn) hne
  exact ⟨info', he.trans hf, (mem_illegalInputs_iff s i info').mp hmem⟩

/-- A next state in one of two states that present the same is one in the other, with the same outputs. -/
theorem SameInputs.next {s t s' : State} {i : Instr} (h : SameInputs s t i) (hn : NewNames t i.dests)
    (hs : exec i s = .next s') : ∃ t', exec i t = .next t' ∧ ∀ n ∈ i.dests, t'.nets.get n = s'.nets.get n := by
  obtain ⟨outs, hes, het, hd⟩ := exec_congr h
  obtain ⟨hp, -, hi, rfl⟩ := evaluate_eq_next.mp (hes ▸ hs)
  refine ⟨t.commit outs, het.trans (evaluate_eq_next.mpr ⟨fun p hm => (h.portReady_iff hm).mp (hp p hm), hd ▸ hn,
    h.illegalInputs_eq ▸ hi, rfl⟩), fun n hmem => ?_⟩
  have hnodup : (outs.map Prod.fst).Nodup := hd ▸ hn.1
  obtain ⟨o, ho, rfl⟩ := List.mem_map.mp (hd ▸ hmem)
  exact (get_setAll_mem t.nets hnodup ho).trans (get_setAll_mem s.nets hnodup ho).symm

/-- A DomainError in one of two states that present the same is one in the other. -/
theorem SameInputs.fails {s t : State} {i : Instr} {f : Fault} (h : SameInputs s t i) (hn : NewNames t i.dests)
    (hs : exec i s = .fault f) : FailsWith (exec i t) (IllegalInput t i) := by
  obtain ⟨hp, info, -, hi⟩ := exec_eq_fault hs
  exact exec_fails (fun p hm => (h.portReady_iff hm).mp (hp p hm)) hn ((h.illegalInput_iff info).mp hi)

/-- Settles O45: the evaluation is the same `evaluate` in both states, on ports that agree; a sole illegal input leaves the
draw no choice. -/
theorem outcomeDependsOnOwnInputsAlone : Obligations.OutcomeDependsOnOwnInputsAlone := by
  intro i s t h hns hnt
  refine ⟨fun s' hs => h.next hnt hs, ⟨fun ⟨_, hs⟩ => ?_, fun ⟨_, ht⟩ => ?_⟩, fun info hs honly => ?_, fun info ht => ?_⟩
  · obtain ⟨info, hf, -⟩ := h.fails hnt hs
    exact ⟨_, hf⟩
  · obtain ⟨info, hf, -⟩ := h.symm.fails hns ht
    exact ⟨_, hf⟩
  · obtain ⟨other, hf, hi⟩ := h.fails hnt hs
    exact honly other ((h.illegalInput_iff other).mpr hi) ▸ hf
  · obtain ⟨-, _, ⟨⟩, hi⟩ := exec_eq_fault ht
    exact ⟨(h.illegalInput_iff _).mpr hi, hi⟩

end Sys2Proof.Machine
end

section
/-! The control codes as instructions of the unit alu (R72, R76, R79): every one decodes, no two are the same instruction, and
each is the alu with its control ports tied; and the ports of every instruction against the table of R70. -/

namespace Sys2Proof

/-- The ports of a code's instruction show its six Bits. -/
theorem codeParts_inj {d : AluDest} {x y : WordSrc} {zx nx zy ny f no zx' nx' zy' ny' f' no' : Bit} :
    codeParts d x y zx nx zy ny f no = codeParts d x y zx' nx' zy' ny' f' no' ↔
      zx = zx' ∧ nx = nx' ∧ zy = zy' ∧ ny = ny' ∧ f = f' ∧ no = no' := by
  simp [codeParts, aluPorts, bitPort, BitSrc.src]

theorem parts_ofCode (c : BitVec 6) (d : AluDest) (x y : WordSrc) :
    (Instr.ofCode c d x y).parts = codeParts d x y (c.getLsbD 5) (c.getLsbD 4) (c.getLsbD 3) (c.getLsbD 2) (c.getLsbD 1)
      (c.getLsbD 0) :=
  parts_codeInstr ..

/-- The instruction of a code determines the code. -/
theorem ofCode_injective {c c' : BitVec 6} {d : AluDest} {x y : WordSrc}
    (h : Instr.ofCode c d x y = Instr.ofCode c' d x y) : c = c' := by
  have hparts := congrArg Instr.parts h
  rw [parts_ofCode, parts_ofCode, codeParts_inj] at hparts
  obtain ⟨h5, h4, h3, h2, h1, h0⟩ := hparts
  refine BitVec.eq_of_getLsbD_eq fun i hi => ?_
  interval_cases i <;> assumption

/-- The line of a six-bit code, widened to its byte, decodes to the code's instruction. -/
theorem decode_code_setWidth (c : BitVec 6) (d : AluDest) (x y : WordSrc) :
    decode (codeLine (c.setWidth 8) d x y) = .ok (Instr.ofCode c d x y) := by
  have hlt : (c.setWidth 8).toNat < 64 := by
    rw [BitVec.toNat_setWidth_of_le (by decide)]
    exact c.isLt
  rw [decode_codeLine hlt, BitVec.setWidth_setWidth_of_le c (by decide), BitVec.setWidth_eq]

theorem decode_code_of_le {b : Byte} (h : 64 ≤ b.toNat) (outs : List Name) (ins : List Src) :
    decode ⟨.code b, outs, ins⟩ = .error .controlCode := by
  simp [decode, Nat.not_lt.mpr h]

/-- Settles O8: the byte of a code is below 64 and narrows to the code, and the tied control ports tell codes apart. -/
theorem everyControlCodeDecodes : Obligations.EveryControlCodeDecodes :=
  ⟨fun c d x y => ⟨decode_code_setWidth c d x y, congrArg Parts.cell (parts_ofCode c d x y)⟩,
    fun _ _ _ _ _ => ofCode_injective, fun _ outs ins h => decode_code_of_le h outs ins⟩

/-- Settles O22: `exec_codeInstr` at the six Bits of the code. -/
theorem controlCodeIsAluWithTiedControls : Obligations.ControlCodeIsAluWithTiedControls :=
  fun _ d x y s => Machine.exec_codeInstr d x y _ _ _ _ _ _ s

/-- Settles O51: constructor by constructor; the alu and its codes share one argument, in which zr and ng may go unnamed. -/
theorem portsAreThoseOfTheUnit : Obligations.PortsAreThoseOfTheUnit := by
  intro i
  cases i with
  | and o a b => exact Laws.UnitPorts.and o a b
  | or o a b => exact Laws.UnitPorts.or o a b
  | not o a => exact Laws.UnitPorts.not o a
  | nand o a b => exact Laws.UnitPorts.nand o a b
  | xor o a b => exact Laws.UnitPorts.xor o a b
  | halfAdder s k a b => exact Laws.UnitPorts.halfAdder s k a b
  | fullAdder s k a b c => exact Laws.UnitPorts.fullAdder s k a b c
  | adder16 o A B => exact Laws.UnitPorts.adder16 o A B
  | inc16 o A => exact Laws.UnitPorts.inc16 o A
  | mux16 o A B sel => exact Laws.UnitPorts.mux16 o A B sel
  | not16 o A => exact Laws.UnitPorts.not16 o A
  | and16 o A B => exact Laws.UnitPorts.and16 o A B
  | alu d x y zx nx zy ny f no => exact Laws.UnitPorts.alu d x y zx nx zy ny f no
  | _ d x y => exact Laws.unitPorts_alu rfl rfl rfl

end Sys2Proof
end

section
/-! Single assignment (R81): names that are not new are refused, after the ports and before the Bits. -/

namespace Sys2Proof.Machine

theorem evaluate_refused {u : Cell} {ports : List PortUse} {outs : List (Name × Value)} {s : State} {r : Refusal}
    (h : evaluationRefusal s u ports (outs.map Prod.fst) = some r) : evaluate u ports outs s = .refused r := by
  simp [evaluate, h]

/-- With every port ready, the reason is the output names. -/
theorem evaluationRefusal_of_not_new {s : State} {u : Cell} {ports : List PortUse} {ns : List Name}
    (hp : ∀ p ∈ ports, PortReady s p) (hn : ¬NewNames s ns) :
    evaluationRefusal s u ports ns = some (.nameDefinedTwice u) := by
  have hports : ports.findSome? (portRefusal s u ns) = none :=
    List.findSome?_eq_none_iff.mpr fun p hm => (hp p hm).no_refusal u ns
  have hfree : destsFree s ns = false := Bool.eq_false_iff.mpr fun h => hn (destsFree_iff.mp h)
  simp [evaluationRefusal, hports, hfree]

/-- Settles O42: an evaluation without a refusal has new names; and of ready ports none gives a reason before the names. -/
theorem namesAreSingleAssignment : Obligations.NamesAreSingleAssignment := by
  intro i s hn
  obtain ⟨outs, he, hd, -⟩ := exec_eq_evaluate i s
  rw [he]
  rw [← hd] at hn
  refine ⟨?_, fun hp => evaluate_refused (evaluationRefusal_of_not_new
    (fun p hm => (portReady_iff_portDriven s p).mpr (hp p hm)) hn)⟩
  have hr : evaluationRefusal s i.cell i.ports (outs.map Prod.fst) ≠ none := fun h =>
    hn (evaluationRefusal_eq_none.mp h).2
  obtain ⟨r, hr⟩ := Option.ne_none_iff_exists'.mp hr
  exact ⟨r, evaluate_refused hr⟩

end Sys2Proof.Machine
end

section
/-! The alu on presented operands, its control codes, and the table of R82. -/

namespace Sys2Proof.Machine

/-- No input is illegal exactly when none is at any one port. -/
theorem illegalInputs_eq_nil_iff {s : State} {u : Cell} {ports : List PortUse} :
    illegalInputs s u ports = [] ↔ ∀ p ∈ ports, illegalInputs s u [p] = [] := by
  simp [illegalInputs]

theorem presentsBit_lit (s : State) (b : Bit) : PresentsBit s (.lit b) b := Or.inl ⟨b, rfl, rfl⟩

/-- The flags an alu line names are those of its result word (R157, R158). -/
theorem aluOutputs_eq_aluNamed (d : AluDest) (o : Word16) :
    aluOutputs d o = aluNamed d o (decide (o = 0x0000#16)) (o.getLsbD 15) := rfl

/-- The alu on presented operands and control Bits: its outputs are those of `aluOut` (R160). -/
theorem execAlu_yields {s : State} {d : AluDest} {x y : WordSrc} {zx nx zy ny f no : BitSrc} {vx vy : Word16}
    {bzx bnx bzy bny bf bno : Bit} (hx : PresentsWord s x vx) (hy : PresentsWord s y vy) (hzx : PresentsBit s zx bzx)
    (hnx : PresentsBit s nx bnx) (hzy : PresentsBit s zy bzy) (hny : PresentsBit s ny bny) (hf : PresentsBit s f bf)
    (hno : PresentsBit s no bno) (hn : NewNames s d.names) :
    Yields s (execAlu d x y zx nx zy ny f no s) (aluOutputs d (aluOut vx vy bzx bnx bzy bny bf bno)) := by
  unfold execAlu
  rw [hx.read, hy.read, hzx.read, hnx.read, hzy.read, hny.read, hf.read, hno.read]
  refine evaluate_yields ?_ (aluOutputs_fst d _ ▸ hn) (illegalInputs_eq_nil_iff.mpr ?_)
  · simp [aluPorts, hx.ready, hy.ready, hzx.ready, hnx.ready, hzy.ready, hny.ready, hf.ready, hno.ready]
  · simp [aluPorts, hx.legal, hy.legal, hzx.legal, hnx.legal, hzy.legal, hny.legal, hf.legal, hno.legal]

/-- A control code on presented operands: its outputs are those of `codeOut`. -/
theorem exec_ofCode_yields {s : State} {d : AluDest} {x y : WordSrc} {vx vy : Word16} (c : BitVec 6)
    (hx : PresentsWord s x vx) (hy : PresentsWord s y vy) (hn : NewNames s d.names) :
    Yields s (exec (Instr.ofCode c d x y) s) (aluOutputs d (codeOut c vx vy)) := by
  rw [Instr.ofCode, exec_codeInstr]
  exact execAlu_yields hx hy (presentsBit_lit ..) (presentsBit_lit ..) (presentsBit_lit ..) (presentsBit_lit ..)
    (presentsBit_lit ..) (presentsBit_lit ..) hn

theorem decode_pseudo (p : Pseudo) (d : AluDest) (x y : WordSrc) :
    decode ⟨.pseudo p, d.names, [x.src, y.src]⟩ = .ok (Instr.ofCode p.code d x y) := by
  simp [decode, decodeCode, bind, Except.bind, pure, Except.pure]

/-- The function of x and y that R82 gives each pseudo-instruction. -/
def pseudoFn : Pseudo → Word16 → Word16 → Word16
  | .zero => fun _ _ => 0x0000#16
  | .one => fun _ _ => 0x0001#16
  | .mone => fun _ _ => 0xFFFF#16
  | .passx => fun x _ => x
  | .passy => fun _ y => y
  | .notx => fun x _ => ~~~x
  | .noty => fun _ y => ~~~y
  | .negx => fun x _ => -x
  | .negy => fun _ y => -y
  | .incx => fun x _ => x + 1
  | .incy => fun _ y => y + 1
  | .decx => fun x _ => x - 1
  | .decy => fun _ y => y - 1
  | .add => fun x y => x + y
  | .sub => fun x y => x - y
  | .rsub => fun x y => y - x
  | .and => fun x y => x &&& y
  | .or => fun x y => x ||| y

/-! With one operand all ones, AND passes the other on and ADD takes 1 from it (R165). -/

theorem and_ones (w : Word16) : w &&& 0xFFFF#16 = w := BitVec.and_allOnes
theorem ones_and (w : Word16) : 0xFFFF#16 &&& w = w := BitVec.allOnes_and
theorem add_ones (w : Word16) : w + 0xFFFF#16 = w - 1 := (BitVec.sub_eq_add_neg w 1#16).symm
theorem ones_add (w : Word16) : 0xFFFF#16 + w = w - 1 := (BitVec.add_comm ..).trans (add_ones w)

/-- Each code of R82 computes its row: constants; AND of operands or with all ones; sums, where a complement before and
after the sum makes a difference. -/
theorem codeOut_pseudo (p : Pseudo) (x y : Word16) : codeOut p.code x y = pseudoFn p x y := by
  unfold codeOut
  rw [aluOut_eq]
  cases p with
  | zero | one | mone => simp [Pseudo.code, pseudoFn]
  | passx | notx | and => simp [Pseudo.code, pseudoFn, and_ones]
  | passy | noty => simp [Pseudo.code, pseudoFn, ones_and]
  | or => simp [Pseudo.code, pseudoFn, BitVec.not_and]
  | decx | add => simp [Pseudo.code, pseudoFn, add_ones]
  | decy => simp [Pseudo.code, pseudoFn, ones_add]
  | negx | incx => simp [Pseudo.code, pseudoFn, add_ones, BitVec.not_sub_eq_not_add, BitVec.neg_eq_not_add]
  | negy | incy => simp [Pseudo.code, pseudoFn, ones_add, BitVec.not_sub_eq_not_add, BitVec.neg_eq_not_add]
  | sub => simp [Pseudo.code, pseudoFn, BitVec.not_add_eq_not_neg]
  | rsub => simp [Pseudo.code, pseudoFn, BitVec.add_comm x, BitVec.not_add_eq_not_neg]

/-- A pseudo-instruction is the instruction of its code and computes its row's function. -/
theorem pseudoRule (p : Pseudo) : PseudoRule p (Instr.ofCode p.code) (pseudoFn p) := by
  refine ⟨decode_pseudo p, fun s d x y vx vy hx hy hn => ?_⟩
  rw [← codeOut_pseudo, ← aluOutputs_eq_aluNamed]
  exact exec_ofCode_yields p.code hx hy hn

/-- Settles O9: each row is `pseudoRule`, its code and its function written out. -/
theorem pseudoInstructionsExpand : Obligations.PseudoInstructionsExpand :=
  ⟨pseudoRule .zero, pseudoRule .one, pseudoRule .mone, pseudoRule .passx, pseudoRule .passy, pseudoRule .notx,
    pseudoRule .noty, pseudoRule .negx, pseudoRule .negy, pseudoRule .incx, pseudoRule .incy, pseudoRule .decx,
    pseudoRule .decy, pseudoRule .add, pseudoRule .sub, pseudoRule .rsub, pseudoRule .and, pseudoRule .or⟩

end Sys2Proof.Machine
end

section
/-! A well-formed netlist on legal inputs runs to its end (D15, R81, R310): each line's evaluation answers a next state, which
keeps the run invariant and drives just the names that the check of the lines after it counts as defined. -/

namespace Sys2Proof

theorem NetTypes.get_append (g h : NetTypes) (n : Name) :
    NetTypes.get (g ++ h) n = (NetTypes.get g n).or (NetTypes.get h n) := by
  induction g with
  | nil => rfl
  | cons p g ih =>
    by_cases hp : p.1 = n
    · simp [NetTypes.get, hp]
    · simp [NetTypes.get, hp, ih]

theorem NetTypes.mem_of_get {g : NetTypes} {n : Name} {w : Width} (h : NetTypes.get g n = some w) : (n, w) ∈ g := by
  induction g with
  | nil => cases h
  | cons p g ih =>
    obtain ⟨k, u⟩ := p
    by_cases hk : k = n
    · simp only [NetTypes.get, if_pos hk, Option.some.injEq] at h
      simp [hk, h]
    · simp only [NetTypes.get, if_neg hk] at h
      exact List.mem_cons_of_mem _ (ih h)

theorem NetTypes.get_eq_none {g : NetTypes} {n : Name} (h : NetTypes.get g n = none) : n ∉ g.map Prod.fst := by
  induction g with
  | nil => simp
  | cons p g ih =>
    by_cases hp : p.1 = n
    · simp [NetTypes.get, hp] at h
    · simp only [NetTypes.get, if_neg hp] at h
      simp [Ne.symm hp, ih h]

/-- The check of a netlist reads no more of the names defined before than their widths. -/
theorem Netlist.wellFormed_congr {g h : NetTypes} (hg : ∀ n, NetTypes.get g n = NetTypes.get h n) (is : List Instr) :
    Netlist.wellFormed g is = Netlist.wellFormed h is := by
  induction is generalizing g h with
  | nil => rfl
  | cons i is ih =>
    have hsrc : ∀ t : Src, t.width? g = t.width? h := fun t => by
      cases t with
      | net n => exact hg n
      | bit b => rfl
      | word w => rfl
    have hrest : Netlist.wellFormed (i.defs ++ g) is = Netlist.wellFormed (i.defs ++ h) is :=
      ih fun n => by rw [NetTypes.get_append, NetTypes.get_append, hg]
    simp only [Netlist.wellFormed, Instr.portsDefined, Instr.destsNew, hsrc, hg, hrest]

/-- A well-formed netlist is a well-formed first line before a netlist well formed over its outputs too. -/
theorem Netlist.wellFormed_cons {g : NetTypes} {i : Instr} {is : List Instr} :
    Netlist.wellFormed g (i :: is) = true ↔
      i.dests.Nodup ∧ i.noFeedback = true ∧ (∀ p ∈ i.ports, p.src.width? g = some p.width) ∧
        (∀ n ∈ i.dests, NetTypes.get g n = none) ∧ Netlist.wellFormed (i.defs ++ g) is = true := by
  simp [Netlist.wellFormed, Instr.wellFormed, Instr.destsDistinct, Instr.portsDefined, Instr.destsNew, and_assoc]

end Sys2Proof

namespace Sys2Proof.Machine

/-! What a state drives, as the check of a netlist sees it. -/

theorem get_types (s : State) (n : Name) : NetTypes.get s.types n = (s.nets.get n).map Value.width := by
  unfold State.types
  induction s.nets with
  | nil => rfl
  | cons p m ih =>
    by_cases hp : p.1 = n
    · simp [NetTypes.get, Nets.get, hp]
    · simp [NetTypes.get, Nets.get, hp, ih]

theorem width?_types (s : State) (t : Src) : t.width? s.types = (srcValue s t).map Value.width := by
  cases t with
  | net n => exact get_types s n
  | bit b => rfl
  | word w => rfl

/-! What a source carries in a state that meets the run invariant. -/

theorem isLegal_of_srcValue {s : State} (h : s.legal = true) {t : Src} {v : Value} (hv : srcValue s t = some v) :
    v.isLegal = true := by
  cases t with
  | net n => exact List.all_eq_true.mp h _ (mem_of_get hv)
  | bit b => cases hv; rfl
  | word w => cases hv; rfl

theorem raw_of_srcValue {s : State} (h : s.rawOnlyIfOn = true) {t : Src} {v : Value} (hv : srcValue s t = some v) :
    (v.isRaw && !s.rawBits) = false := by
  cases t with
  | net n =>
    rcases Bool.or_eq_true_iff.mp h with hon | hnone
    · simp [hon]
    · have hraw : (!v.isRaw) = true := List.all_eq_true.mp hnone _ (mem_of_get hv)
      simp [(Bool.not_eq_true' _).mp hraw]
  | bit b => cases hv; rfl
  | word w => cases hv; rfl

theorem illegalBits_of_isLegal {v : Value} (h : v.isLegal = true) (p : PortName) : v.illegalBits p = [] := by
  cases v with
  | bit b => rfl
  | word w => rfl
  | rawBit b => exact if_pos h
  | rawWord r => rw [Value.illegalBits, List.isEmpty_iff.mp h, List.map_nil]

/-- On legal values the edge check of every unit passes (R305). -/
theorem illegalInputs_of_legal {s : State} (h : s.legal = true) (u : Cell) (ports : List PortUse) :
    illegalInputs s u ports = [] := by
  refine List.flatMap_eq_nil_iff.mpr fun p _ => ?_
  cases hv : srcValue s p.src with
  | none => rfl
  | some v => simp [illegalBits_of_isLegal (isLegal_of_srcValue h hv)]

/-- A port wired to a source of its width is ready. -/
theorem portReady_of_width {s : State} (h : s.rawOnlyIfOn = true) {p : PortUse}
    (hp : p.src.width? s.types = some p.width) : PortReady s p := by
  rw [width?_types] at hp
  obtain ⟨v, hv, hw⟩ := Option.map_eq_some_iff.mp hp
  exact ⟨v, hv, hw, raw_of_srcValue h hv⟩

/-- The evaluation of a line that the check admits answers a next state. -/
theorem exec_next_of_wellFormed {s : State} {i : Instr} (hs : s.Inv) (hd : i.dests.Nodup)
    (hp : ∀ p ∈ i.ports, p.src.width? s.types = some p.width) (hn : ∀ n ∈ i.dests, NetTypes.get s.types n = none) :
    ∃ t, exec i s = .next t := by
  obtain ⟨-, hlegal, hraw⟩ := hs
  obtain ⟨outs, he, houts, -⟩ := exec_eq_evaluate i s
  have hnew : NewNames s i.dests := ⟨hd, fun n hm => Option.map_eq_none_iff.mp (get_types s n ▸ hn n hm)⟩
  exact ⟨_, he.trans (evaluate_eq_next.mpr ⟨fun p hm => portReady_of_width hraw (hp p hm), houts ▸ hnew,
    illegalInputs_of_legal hlegal _ _, rfl⟩)⟩

/-- An evaluation that answers a next state keeps the run invariant: its outputs are legal and not raw (R308). -/
theorem exec_next_inv {s t : State} {i : Instr} (h : exec i s = .next t) (hs : s.Inv) : t.Inv := by
  obtain ⟨hwf, hlegal, hraw⟩ := hs
  obtain ⟨outs, -, -, ho, -, -, -, rfl⟩ := exec_eq_next h
  refine ⟨wf_setAll hwf outs, all_setAll hlegal fun o hm => (ho o hm).1, Bool.or_eq_true_iff.mpr ?_⟩
  exact (Bool.or_eq_true_iff.mp hraw).imp id fun hr =>
    all_setAll (P := fun v => !v.isRaw) hr fun o hm => by simp [(ho o hm).2]

/-- An evaluation that answers a next state drives the line's names, at their ports' widths, beside those before. -/
theorem get_types_exec {s t : State} {i : Instr} (h : exec i s = .next t) (n : Name) :
    NetTypes.get t.types n = NetTypes.get (i.defs ++ s.types) n := by
  obtain ⟨-, hdefs, frame, -⟩ := evaluationChangesOnlyItsOutputs i s t h
  obtain ⟨outs, hdests, houts, -⟩ := exec_eq_next h
  rw [NetTypes.get_append, get_types]
  cases hn : NetTypes.get i.defs n with
  | some w =>
    obtain ⟨v, hv, hw, -⟩ := hdefs (n, w) (NetTypes.mem_of_get hn)
    simp [hv, hw]
  | none =>
    have hmem : n ∉ i.dests := by simpa [← houts, ← hdests] using NetTypes.get_eq_none hn
    simp [frame n hmem, get_types]

/-- An evaluation that answers a next state leaves every driven name its value. -/
theorem get_exec_of_driven {s t : State} {i : Instr} (h : exec i s = .next t) {n : Name} {v : Value}
    (hv : s.nets.get n = some v) : t.nets.get n = some v := by
  obtain ⟨hnew, -, frame, -⟩ := evaluationChangesOnlyItsOutputs i s t h
  have hmem : n ∉ i.dests := fun hm => Option.some_ne_none v (hv.symm.trans (hnew n hm))
  exact (frame n hmem).trans hv

theorem run_succ_of_step {s u : State} (h : step s = .next u) (k : Nat) :
    Host.Core.run core (k + 1) s = Host.Core.run core k u := by
  have h' : core.step s = .next u := h
  simp only [Host.Core.run, h']

/-- The step on the first line of a well-formed netlist: the line is evaluated, its names carry legal values of their ports'
widths beside the names driven before, and the rest of the netlist is well formed again. -/
theorem step_of_wellFormed {s : State} {l : Line} {ls : List Line} {i : Instr} {is : List Instr} (hs : s.Inv)
    (hl : s.lines = l :: ls) (hdec : decode l = .ok i) (hwf : Netlist.wellFormed s.types (i :: is) = true) :
    ∃ u, step s = .next u ∧ u.Inv ∧ Netlist.wellFormed u.types is = true ∧ u.lines = ls ∧
      u.evaluated = s.evaluated ++ [l] ∧
      (∀ p ∈ i.defs, ∃ v, u.nets.get p.1 = some v ∧ v.width = p.2 ∧ v.isLegal = true) ∧
      ∀ n v, s.nets.get n = some v → u.nets.get n = some v := by
  obtain ⟨hnodup, -, hports, hnew, hrest⟩ := Netlist.wellFormed_cons.mp hwf
  obtain ⟨u, hu⟩ := exec_next_of_wellFormed (s := { s with lines := ls, evaluated := s.evaluated ++ [l] }) hs hnodup
    hports hnew
  obtain ⟨-, hdefs, -, -, hlines, heval, -⟩ := evaluationChangesOnlyItsOutputs i _ u hu
  refine ⟨u, (step_of_decode hl hdec).trans hu, exec_next_inv hu hs,
    (Netlist.wellFormed_congr (get_types_exec hu) is).trans hrest, hlines, heval, fun p hp => ?_,
    fun n v hv => get_exec_of_driven hu hv⟩
  obtain ⟨v, hv, hw, hlegal, -⟩ := hdefs p hp
  exact ⟨v, hv, hw, hlegal⟩

/-- Settles O49, by induction on the netlist: the first step leaves a state over which the rest is well formed, and what it
drives the rest leaves unchanged. -/
theorem wellFormedNetlistRunsToItsEnd : Obligations.WellFormedNetlistRunsToItsEnd := by
  intro is
  induction is with
  | nil =>
    intro s _ hlines _
    have hnil : s.lines = [] := List.map_eq_nil_iff.mp hlines
    exact ⟨s, rfl, hnil, by simp [hnil], by simp, fun _ _ hv => hv⟩
  | cons i is ih =>
    intro s hs hlines hwf
    obtain ⟨l, ls, hl, hdec, hrest⟩ := List.map_eq_cons_iff.mp hlines
    obtain ⟨u, hstep, hu, hwfu, hul, hue, hdefs, hkeep⟩ := step_of_wellFormed hs hl hdec hwf
    obtain ⟨t, hrun, htl, hte, htdefs, htkeep⟩ := ih u hu (hul ▸ hrest) hwfu
    refine ⟨t, (run_succ_of_step hstep _).trans hrun, htl, by simp [hte, hue, hul, hl], fun j hj p hp => ?_,
      fun n v hv => htkeep n v (hkeep n v hv)⟩
    rcases List.mem_cons.mp hj with rfl | hj
    · obtain ⟨v, hv, hw, hlegal⟩ := hdefs p hp
      exact ⟨v, htkeep p.1 v hv, hw, hlegal⟩
    · exact htdefs j hj p hp

end Sys2Proof.Machine
end

section
/-! The gates (R103 to R107) on what their sources present, and NAND-only XOR (R107, C1). -/

namespace Sys2Proof.Machine

/-- The edge check lists an input exactly when it lists it at the first port or at the ports after it. -/
theorem mem_illegalInputs_cons {s : State} {u : Cell} {p : PortUse} {ps : List PortUse} {info : DomainInfo} :
    info ∈ illegalInputs s u (p :: ps) ↔ info ∈ illegalInputs s u [p] ∨ info ∈ illegalInputs s u ps := by
  rw [illegalInputs_cons, List.mem_append]

/-- An evaluation otherwise ready, of which some input is illegal, is a DomainError with what the illegal inputs satisfy. -/
theorem evaluate_failsWith {u : Cell} {ports : List PortUse} {outs : List (Name × Value)} {s : State}
    {P : DomainInfo → Prop} (hp : ∀ p ∈ ports, PortReady s p) (hn : NewNames s (outs.map Prod.fst))
    (hP : ∀ info, info ∈ illegalInputs s u ports ↔ P info) (hex : ∃ info, P info) :
    FailsWith (evaluate u ports outs s) P := by
  obtain ⟨info, hinfo⟩ := hex
  obtain ⟨drawn, hfault, hmem⟩ := evaluate_fails hp hn (List.ne_nil_of_mem ((hP info).mpr hinfo))
  exact ⟨drawn, hfault, (hP drawn).mp hmem⟩

/-- A byte above 1 at a Bit port is an illegal input of it. -/
theorem illegalBit_of_one_lt {u : Cell} {v : Byte} (h : 1#8 < v) (p : PortName) : IllegalBit p v ⟨u, ⟨p, none⟩, v⟩ :=
  ⟨rfl, rfl, h⟩

/-- An instruction that evaluates a unit of one Bit port, whose gate is g, computes g. -/
theorem bitUnit1_of_exec {u : Cell} {mk : Name → BitSrc → Instr} {gate g : Bit → Bit}
    (hexec : ∀ out a s, exec (mk out a) s = evaluate u [bitPort .a a] [(out, .bit (gate (readBit s a)))] s)
    (hgate : ∀ a, gate a = g a) : BitUnit1 u mk g := by
  constructor
  · intro s out a va ha hn
    rw [hexec, ha.read, hgate]
    exact evaluate_yields (by simp [ha.ready]) hn (ha.legal ..)
  · intro s out a va ha hn hva
    rw [hexec]
    exact evaluate_failsWith (by simp [ha.ready]) hn (mem_illegalInputs_bit ha u .a)
      ⟨_, rfl, illegalBit_of_one_lt hva .a⟩

/-- The illegal inputs found at two Bit ports. -/
theorem mem_illegalInputs_bits {s : State} {a b : BitSrc} {va vb : Byte} (ha : PresentsByte s a va)
    (hb : PresentsByte s b vb) (u : Cell) (p q : PortName) (info : DomainInfo) :
    info ∈ illegalInputs s u [bitPort p a, bitPort q b] ↔
      info.unit = u ∧ (IllegalBit p va info ∨ IllegalBit q vb info) := by
  rw [mem_illegalInputs_cons, mem_illegalInputs_bit ha, mem_illegalInputs_bit hb, and_or_left]

/-- An instruction that evaluates a unit of two Bit ports, whose gate is g, computes g. -/
theorem bitUnit2_of_exec {u : Cell} {mk : Name → BitSrc → BitSrc → Instr} {gate g : Bit → Bit → Bit}
    (hexec : ∀ out a b s, exec (mk out a b) s =
      evaluate u [bitPort .a a, bitPort .b b] [(out, .bit (gate (readBit s a) (readBit s b)))] s)
    (hgate : ∀ a b, gate a b = g a b) : BitUnit2 u mk g := by
  constructor
  · intro s out a b va vb ha hb hn
    rw [hexec, ha.read, hb.read, hgate]
    exact evaluate_yields (by simp [ha.ready, hb.ready]) hn
      (illegalInputs_eq_nil_iff.mpr (by simp [ha.legal, hb.legal]))
  · intro s out a b va vb ha hb hn hv
    have hex : ∃ info : DomainInfo, info.unit = u ∧ (IllegalBit .a va info ∨ IllegalBit .b vb info) := by
      rcases hv with hva | hvb
      · exact ⟨_, rfl, .inl (illegalBit_of_one_lt hva .a)⟩
      · exact ⟨_, rfl, .inr (illegalBit_of_one_lt hvb .b)⟩
    rw [hexec]
    exact evaluate_failsWith (by simp [ha.ready, hb.ready]) hn (mem_illegalInputs_bits ha hb u .a .b) hex

/-- Settles O10: each instruction is the evaluation of its gate, which agrees with the truth table row by row. -/
theorem gateTruthTables : Obligations.GateTruthTables :=
  ⟨bitUnit2_of_exec (gate := gateAnd) (fun _ _ _ _ => rfl) (by decide),
    bitUnit2_of_exec (gate := gateOr) (fun _ _ _ _ => rfl) (by decide),
    bitUnit1_of_exec (gate := gateNot) (fun _ _ _ => rfl) (by decide),
    bitUnit2_of_exec (gate := gateNand) (fun _ _ _ _ => rfl) (by decide),
    bitUnit2_of_exec (gate := gateXor) (fun _ _ _ _ => rfl) (by decide)⟩

/-- Under a NAND with a, an inner NAND with the same a is a complement: where a is 0 the outer one is 1 anyway. -/
theorem gateNand_gateNand (a b : Bit) : gateNand a (gateNand a b) = gateNand a (gateNot b) := by
  cases a <;> cases b <;> rfl

/-- Settles O11: the construction by its truth table; in the nested NAND the two complements of b cancel. -/
theorem nandNetworkIsXor : Obligations.NandNetworkIsXor := by
  refine ⟨fun a b => ?_, fun a b => ?_, by decide⟩
  · cases a <;> cases b <;> rfl
  · rw [gateNand_gateNand a b, gateNand_gateNand a (gateNot b), gateNot_eq, gateNot_eq, Bool.not_not]

end Sys2Proof.Machine
end

section
/-! The adder cells (R120 to R122) on what their sources present, and the illegal inputs that a port can show. -/

namespace Sys2Proof.Machine

/-- A Bit port can be named by a DomainError exactly when it presents a byte above 1. -/
theorem exists_illegalBit {u : Cell} {p : PortName} {v : Byte} :
    (∃ info : DomainInfo, info.unit = u ∧ IllegalBit p v info) ↔ 1#8 < v :=
  ⟨fun ⟨_, _, _, _, h⟩ => h, fun h => ⟨_, rfl, illegalBit_of_one_lt h p⟩⟩

/-- A Word16 port can be named by a DomainError exactly when some element of it is above 1. -/
theorem exists_illegalElem {u : Cell} {p : PortName} {v : Fin 16 → Byte} :
    (∃ info : DomainInfo, info.unit = u ∧ IllegalElem p v info) ↔ ∃ i, 1#8 < v i :=
  ⟨fun ⟨_, _, i, _, _, h⟩ => ⟨i, h⟩, fun ⟨i, h⟩ => ⟨⟨u, ⟨p, some i⟩, v i⟩, rfl, i, rfl, rfl, h⟩⟩

theorem halfAdder_eq (a b : Bit) : halfAdder a b = (a ^^ b, a && b) := by
  rw [halfAdder, gateXor_eq, gateAnd_eq]

/-- Two half adders and an OR (R122) compute parity and carry in the form of R121's pseudocode. -/
theorem fullAdder_eq_pseudocode (a b c : Bit) :
    fullAdder a b c = (a ^^ b ^^ c, (a && b) || (c && (a ^^ b))) := by
  simp only [fullAdder, halfAdder_eq, gateOr_eq, Bool.and_comm c]

/-- The carries of the two half adders of a full adder exclude each other: the second needs a sum of 1 from the first. -/
theorem halfAdder_carries_exclusive (a b c : Bit) :
    ((halfAdder a b).2 && (halfAdder (halfAdder a b).1 c).2) = false := by
  simp only [halfAdder_eq]
  cases a <;> cases b <;> rfl

/-- With nothing carried in, the second half adder and the OR add nothing. -/
theorem halfAdder_eq_fullAdder (a b : Bit) : halfAdder a b = fullAdder a b false := by
  simp [halfAdder_eq, fullAdder_eq_pseudocode]

/-- The half adder on presented Bits. -/
theorem exec_halfAdder_yields {s : State} {sum carry : Name} {a b : BitSrc} {va vb : Bit} (ha : PresentsBit s a va)
    (hb : PresentsBit s b vb) (hn : NewNames s [sum, carry]) :
    Yields s (exec (.halfAdder sum carry a b) s)
      [(sum, .bit (halfAdder va vb).1), (carry, .bit (halfAdder va vb).2)] := by
  rw [exec, execHalfAdder, ha.read, hb.read]
  exact evaluate_yields (by simp [ha.ready, hb.ready]) hn (illegalInputs_eq_nil_iff.mpr (by simp [ha.legal, hb.legal]))

/-- The full adder on presented Bits. -/
theorem exec_fullAdder_yields {s : State} {sum carryOut : Name} {a b c : BitSrc} {va vb vc : Bit}
    (ha : PresentsBit s a va) (hb : PresentsBit s b vb) (hc : PresentsBit s c vc) (hn : NewNames s [sum, carryOut]) :
    Yields s (exec (.fullAdder sum carryOut a b c) s)
      [(sum, .bit (fullAdder va vb vc).1), (carryOut, .bit (fullAdder va vb vc).2)] := by
  rw [exec, execFullAdder, ha.read, hb.read, hc.read]
  exact evaluate_yields (by simp [ha.ready, hb.ready, hc.ready]) hn
    (illegalInputs_eq_nil_iff.mpr (by simp [ha.legal, hb.legal, hc.legal]))

/-- Settles O12: the gates as Boolean operations, the arithmetic row by row, and the edge check of two Bit ports. -/
theorem halfAdderSumAndCarry : Obligations.HalfAdderSumAndCarry := by
  refine ⟨fun s sum carry a b va vb ha hb hn => ?_, fun a b => ⟨rfl, halfAdder_eq_fullAdder a b, ?_⟩,
    fun s sum carry a b va vb ha hb hn hv => ?_⟩
  · have h := exec_halfAdder_yields ha hb hn
    rwa [halfAdder_eq] at h
  · cases a <;> cases b <;> rfl
  · rw [exec, execHalfAdder]
    exact evaluate_failsWith (by simp [ha.ready, hb.ready]) hn (mem_illegalInputs_bits ha hb _ .a .b)
      (by simpa only [and_or_left, exists_or, exists_illegalBit] using hv)

/-- The illegal inputs found at three Bit ports. -/
theorem mem_illegalInputs_three_bits {s : State} {a b c : BitSrc} {va vb vc : Byte} (ha : PresentsByte s a va)
    (hb : PresentsByte s b vb) (hc : PresentsByte s c vc) (u : Cell) (p q r : PortName) (info : DomainInfo) :
    info ∈ illegalInputs s u [bitPort p a, bitPort q b, bitPort r c] ↔
      info.unit = u ∧ (IllegalBit p va info ∨ IllegalBit q vb info ∨ IllegalBit r vc info) := by
  rw [mem_illegalInputs_cons, mem_illegalInputs_bit ha, mem_illegalInputs_bits hb hc, ← and_or_left]

/-- Settles O13: the two half adders give R121's pseudocode, whose arithmetic is checked row by row; the edge check is that
of three Bit ports. -/
theorem fullAdderSumAndMajority : Obligations.FullAdderSumAndMajority := by
  refine ⟨fun s sum carryOut a b c va vb vc ha hb hc hn => ?_,
    fun a b c => ⟨?_, ?_, rfl, halfAdder_carries_exclusive a b c, halfAdder_eq_fullAdder a b⟩,
    fun s sum carryOut a b c va vb vc ha hb hc hn hv => ?_⟩
  · have h := exec_fullAdder_yields ha hb hc hn
    rwa [fullAdder_eq_pseudocode] at h
  · cases a <;> cases b <;> cases c <;> rfl
  · revert a b c; decide
  · rw [exec, execFullAdder]
    exact evaluate_failsWith (by simp [ha.ready, hb.ready, hc.ready]) hn (mem_illegalInputs_three_bits ha hb hc _ .a .b .c)
      (by simpa only [and_or_left, exists_or, exists_illegalBit] using hv)

end Sys2Proof.Machine
end

section
/-! The chips over words (R123 to R129) on what their sources present, and the ripple-carry adder against its carries. -/

namespace Sys2Proof.Machine

/-- An instruction that evaluates a unit of one Word16 port, whose chip is g, computes g. -/
theorem wordUnit1_of_exec {u : Cell} {mk : Name → WordSrc → Instr} {chip g : Word16 → Word16}
    (hexec : ∀ out A s, exec (mk out A) s = evaluate u [wordPort .A A] [(out, .word (chip (readWord s A)))] s)
    (hchip : ∀ A, chip A = g A) : WordUnit1 u mk g := by
  constructor
  · intro s out A va hA hn
    rw [hexec, hA.read, hchip]
    exact evaluate_yields (by simp [hA.ready]) hn (hA.legal ..)
  · intro s out A va hA hn hv
    rw [hexec]
    exact evaluate_failsWith (by simp [hA.ready]) hn (mem_illegalInputs_word hA u .A) (exists_illegalElem.mpr hv)

/-- The illegal inputs found at two Word16 ports. -/
theorem mem_illegalInputs_words {s : State} {A B : WordSrc} {va vb : Fin 16 → Byte} (hA : PresentsElems s A va)
    (hB : PresentsElems s B vb) (u : Cell) (p q : PortName) (info : DomainInfo) :
    info ∈ illegalInputs s u [wordPort p A, wordPort q B] ↔
      info.unit = u ∧ (IllegalElem p va info ∨ IllegalElem q vb info) := by
  rw [mem_illegalInputs_cons, mem_illegalInputs_word hA, mem_illegalInputs_word hB, and_or_left]

/-- An instruction that evaluates a unit of two Word16 ports, whose chip is g, computes g. -/
theorem wordUnit2_of_exec {u : Cell} {mk : Name → WordSrc → WordSrc → Instr} {chip g : Word16 → Word16 → Word16}
    (hexec : ∀ out A B s, exec (mk out A B) s =
      evaluate u [wordPort .A A, wordPort .B B] [(out, .word (chip (readWord s A) (readWord s B)))] s)
    (hchip : ∀ A B, chip A B = g A B) : WordUnit2 u mk g := by
  constructor
  · intro s out A B va vb hA hB hn
    rw [hexec, hA.read, hB.read, hchip]
    exact evaluate_yields (by simp [hA.ready, hB.ready]) hn
      (illegalInputs_eq_nil_iff.mpr (by simp [hA.legal, hB.legal]))
  · intro s out A B va vb hA hB hn hv
    rw [hexec]
    exact evaluate_failsWith (by simp [hA.ready, hB.ready]) hn (mem_illegalInputs_words hA hB u .A .B)
      (by simpa only [and_or_left, exists_or, exists_illegalElem] using hv)

/-- The adder's word is the sum of the values modulo 65536 (R123). -/
theorem adder16_eq_ofNat (A B : Word16) : adder16 A B = BitVec.ofNat 16 ((A.toNat + B.toNat) % 65536) := by
  rw [adder16_eq]
  exact BitVec.eq_of_toNat_eq (by simp)

/-- Settles O14: the sixteen rippling full adders compute the sum modulo 65536. -/
theorem adder16ComputesSumModulo : Obligations.Adder16ComputesSumModulo :=
  wordUnit2_of_exec (chip := adder16) (fun _ _ _ _ => rfl) adder16_eq_ofNat

/-- A position below the width reads the Bit given for it. -/
theorem getLsbD_mapBits_of_lt (f : Nat → Bit) {n k : Nat} (hk : k < n) : (mapBits f n).getLsbD k = f k := by
  rw [getLsbD_mapBits, decide_eq_true hk, Bool.true_and]

/-- The full adder at position k takes the carry in and gives the adder's position k and the carry out (R124). -/
theorem fullAdder_carryAt (A B : Word16) {k : Nat} (hk : k < 16) :
    fullAdder (A.getLsbD k) (B.getLsbD k) (carryAt A B k) = ((adder16 A B).getLsbD k, carryAt A B (k + 1)) := by
  rw [adder16, getLsbD_mapBits_of_lt _ hk, carryAt]

/-- The carry out of position 15 is the overflow of the sum of the values (R125). -/
theorem carryAt_last (A B : Word16) : carryAt A B 16 = decide (65536 ≤ A.toNat + B.toNat) := by
  rw [carryAt_eq, BitVec.carry, Nat.mod_eq_of_lt A.isLt, Nat.mod_eq_of_lt B.isLt]
  rfl

/-- The sum of the values is the adder's word and the carry it discards (R123, R125). -/
theorem toNat_add_eq_adder16 (A B : Word16) :
    A.toNat + B.toNat = (adder16 A B).toNat + 65536 * (carryAt A B 16).toNat := by
  have hA := A.isLt
  have hB := B.isLt
  rw [adder16_eq, BitVec.toNat_add, carryAt_last]
  by_cases h : 65536 ≤ A.toNat + B.toNat
  · simp only [h, decide_true, Bool.toNat_true]; omega
  · simp only [h, decide_false, Bool.toNat_false]; omega

/-- Settles O15 with the model's own rippling carry as the chain. -/
theorem rippleCarryIsTheSum : Obligations.RippleCarryIsTheSum := fun A B =>
  ⟨carryAt A B, rfl, fun _ hk => fullAdder_carryAt A B hk, toNat_add_eq_adder16 A B⟩

/-- Settles O16: the adder with its second operand tied to 1. -/
theorem inc16AddsOne : Obligations.Inc16AddsOne :=
  ⟨wordUnit1_of_exec (chip := inc16) (fun _ _ _ => rfl) fun A => adder16_eq_ofNat A 1#16, fun _ => rfl⟩

/-- The illegal inputs found at two Word16 ports and a Bit port after them. -/
theorem mem_illegalInputs_words_bit {s : State} {A B : WordSrc} {c : BitSrc} {va vb : Fin 16 → Byte} {vc : Byte}
    (hA : PresentsElems s A va) (hB : PresentsElems s B vb) (hc : PresentsByte s c vc) (u : Cell) (p q r : PortName)
    (info : DomainInfo) :
    info ∈ illegalInputs s u [wordPort p A, wordPort q B, bitPort r c] ↔
      info.unit = u ∧ (IllegalElem p va info ∨ IllegalElem q vb info ∨ IllegalBit r vc info) := by
  rw [mem_illegalInputs_cons, mem_illegalInputs_cons (p := wordPort q B), mem_illegalInputs_word hA,
    mem_illegalInputs_word hB, mem_illegalInputs_bit hc, and_or_left, and_or_left]

/-- Settles O17: the select is `mux16_eq`; the edge check sees both words and the selector, whichever is selected. -/
theorem mux16SelectsWholeWord : Obligations.Mux16SelectsWholeWord := by
  constructor
  · intro s out A B sel va vb vs hA hB hsel hn
    rw [exec, execMux16, hA.read, hB.read, hsel.read, mux16_eq]
    exact evaluate_yields (by simp [hA.ready, hB.ready, hsel.ready]) hn
      (illegalInputs_eq_nil_iff.mpr (by simp [hA.legal, hB.legal, hsel.legal]))
  · intro s out A B sel va vb vs hA hB hsel hn hv
    rw [exec, execMux16]
    exact evaluate_failsWith (by simp [hA.ready, hB.ready, hsel.ready]) hn
      (mem_illegalInputs_words_bit hA hB hsel _ .A .B .sel)
      (by simpa only [and_or_left, exists_or, exists_illegalBit, exists_illegalElem] using hv)

theorem getLsbD_not16 (A : Word16) {k : Nat} (hk : k < 16) : (not16 A).getLsbD k = gateNot (A.getLsbD k) :=
  getLsbD_mapBits_of_lt _ hk

theorem getLsbD_and16 (A B : Word16) {k : Nat} (hk : k < 16) :
    (and16 A B).getLsbD k = gateAnd (A.getLsbD k) (B.getLsbD k) :=
  getLsbD_mapBits_of_lt _ hk

/-- Settles O18: as words by `not16_eq` and `and16_eq`, lane by lane from the sixteen gates. -/
theorem not16AndAnd16AreBitwise : Obligations.Not16AndAnd16AreBitwise :=
  ⟨wordUnit1_of_exec (chip := not16) (fun _ _ _ => rfl) not16_eq,
    wordUnit2_of_exec (chip := and16) (fun _ _ _ _ => rfl) and16_eq,
    fun A B _ hk => ⟨getLsbD_not16 A hk, getLsbD_and16 A B hk⟩⟩

/-- An outcome that yields one output is a next state in which its name carries it. -/
theorem Yields.next_get {s : State} {o : Outcome} {n : Name} {v : Value} (h : Yields s o [(n, v)]) :
    ∃ t, o = .next t ∧ t.nets.get n = some v := by
  obtain ⟨t, ho, hget, -⟩ := h
  exact ⟨t, ho, hget (n, v) (List.mem_singleton_self _)⟩

/-- The two's-complement readings add modulo 65536. -/
theorem sval_add_congr (A B : Word16) :
    ∃ k : Int, Word16.sval A + Word16.sval B = Word16.sval (A + B) + 65536 * k := by
  refine ⟨Int.bdiv (A.toInt + B.toInt) 65536, ?_⟩
  rw [A.sval_eq_toInt, B.sval_eq_toInt, (A + B).sval_eq_toInt, BitVec.toInt_add]
  exact (Int.bmod_add_bdiv (A.toInt + B.toInt) 65536).symm

/-- Settles O33: the three units answer with the sum of `BitVec`, which wraps in both readings. -/
theorem overflowIsWraparound : Obligations.OverflowIsWraparound := by
  intro s n A B va vb hA hB hn
  obtain ⟨hadder, -⟩ : WordUnit2 .adder16 .adder16 (· + ·) :=
    wordUnit2_of_exec (chip := adder16) (fun _ _ _ _ => rfl) adder16_eq
  obtain ⟨hinc, -⟩ : WordUnit1 .inc16 .inc16 (· + 1#16) :=
    wordUnit1_of_exec (chip := inc16) (fun _ _ _ => rfl) inc16_eq
  obtain ⟨-, halu⟩ := pseudoRule .add
  exact ⟨(hadder s n A B va vb hA hB hn).next_get, (hinc s n A va hA hn).next_get,
    (halu s ⟨n, none⟩ A B va vb hA hB hn).next_get, BitVec.toNat_add va vb, sval_add_congr va vb⟩

end Sys2Proof.Machine
end

section
/-! The unit alu (R150 to R165): its wired form on what its sources present, its stages, its flags, and the laws of its result
word. -/

namespace Sys2Proof.Machine

/-- An input is illegal exactly when it is found illegal at one of the ports. -/
theorem mem_illegalInputs_iff_exists_port {s : State} {u : Cell} {ports : List PortUse} {info : DomainInfo} :
    info ∈ illegalInputs s u ports ↔ ∃ p ∈ ports, info ∈ illegalInputs s u [p] := by
  simp [illegalInputs]

/-- Settles O20: `execAlu_yields` with `aluOut` as word operations; the edge check is that of the eight ports. -/
theorem aluPipelineWithWiredControls : Obligations.AluPipelineWithWiredControls := by
  constructor
  · intro s d x y zx nx zy ny f no vx vy bzx bnx bzy bny bf bno hx hy hzx hnx hzy hny hf hno hn
    have h := execAlu_yields hx hy hzx hnx hzy hny hf hno hn
    rwa [aluOut_eq, aluOutputs_eq_aluNamed] at h
  · intro s d x y zx nx zy ny f no vx vy bzx bnx bzy bny bf bno hx hy hzx hnx hzy hny hf hno hn hv
    rw [exec, execAlu]
    refine evaluate_failsWith ?_ (aluOutputs_fst d _ ▸ hn) (fun info => ?_)
      (by simpa only [and_or_left, exists_or, exists_illegalBit, exists_illegalElem] using hv)
    · simp [aluPorts, hx.ready, hy.ready, hzx.ready, hnx.ready, hzy.ready, hny.ready, hf.ready, hno.ready]
    · rw [mem_illegalInputs_iff_exists_port]
      simp [aluPorts, mem_illegalInputs_word hx, mem_illegalInputs_word hy, mem_illegalInputs_bit hzx,
        mem_illegalInputs_bit hnx, mem_illegalInputs_bit hzy, mem_illegalInputs_bit hny, mem_illegalInputs_bit hf,
        mem_illegalInputs_bit hno, and_or_left]

/-- The four words of R164 that stages 1 and 2 make of an operand. -/
theorem complementStage_zeroStage (w : Word16) (z n : Bit) :
    complementStage (zeroStage w z) n =
      match z, n with
      | false, false => w | false, true => ~~~w | true, false => 0x0000#16 | true, true => 0xFFFF#16 := by
  cases z <;> cases n
  · rfl
  · exact not16_eq w
  · rfl
  · exact not16_eq 0x0000#16

/-- Settles O21: the first four stages are the model's own, the last two a `mux16` as a choice, and the operands' words by
`complementStage_zeroStage`. -/
theorem aluStageValues : Obligations.AluStageValues := fun x y zx nx zy ny f no =>
  ⟨rfl, rfl, rfl, rfl, mux16_eq _ _ f, mux16_eq _ _ no, complementStage_zeroStage x zx nx,
    complementStage_zeroStage y zy ny⟩

/-- Whatever its control form, an instruction of the unit alu is one evaluation whose outputs are a word and its flags. -/
theorem exec_alu_eq_evaluate {i : Instr} (hi : i.cell = .alu) (s : State) :
    ∃ d w, i.dests = AluDest.names d ∧ exec i s = evaluate .alu i.ports (aluOutputs d w) s := by
  cases i with
  | and | or | not | nand | xor | halfAdder | fullAdder | adder16 | inc16 | mux16 | not16 | and16 => cases hi
  | alu d x y zx nx zy ny f no => exact ⟨d, _, rfl, rfl⟩
  | _ d x y => exact ⟨d, _, rfl, rfl⟩

theorem aluDest_eq_of_names {d : AluDest} {o z n : Name} (h : d.names = [o, z, n]) : d = ⟨o, some (z, n)⟩ := by
  obtain ⟨out, _ | ⟨zr, ng⟩⟩ := d <;> cases h
  rfl

/-- Bit 15 is the sign of the two's-complement reading (R158). -/
theorem getLsbD_15_iff_sval_neg (w : Word16) : w.getLsbD 15 = true ↔ Word16.sval w < 0 := by
  rw [w.sval_eq_toInt, ← BitVec.msb_eq_getLsbD_last w, BitVec.msb_eq_toInt, decide_eq_true_iff]

/-- Settles O31: the outputs are those of `aluOutputs` on one word, committed under distinct names. -/
theorem aluFlagsFollowOut : Obligations.AluFlagsFollowOut := by
  intro i o z n s t hcell hdests hnext
  obtain ⟨d, w, hd, he⟩ := exec_alu_eq_evaluate hcell s
  obtain rfl := aluDest_eq_of_names (hd ▸ hdests)
  obtain ⟨-, ⟨hnodup, -⟩, -, rfl⟩ := evaluate_eq_next.mp (he ▸ hnext)
  have carries : ∀ p ∈ aluOutputs ⟨o, some (z, n)⟩ w,
      (s.commit (aluOutputs ⟨o, some (z, n)⟩ w)).nets.get p.1 = some p.2 := fun _ hp => get_setAll_mem s.nets hnodup hp
  refine ⟨w, carries (o, _) (by simp [aluOutputs]), carries (z, .bit (flagZr w)) (by simp [aluOutputs]),
    carries (n, .bit (flagNg w)) (by simp [aluOutputs]), getLsbD_15_iff_sval_neg w, ?_⟩
  rintro ⟨hzero, hneg⟩
  rw [of_decide_eq_true hzero] at hneg
  exact absurd hneg (by decide)

/-- Settles O32: with no control bit set the stages pass the operands on; two zeroed operands AND to 0x0000. -/
theorem aluSourceLaws : Obligations.AluSourceLaws := by
  intro x y
  have hzero : aluOut x x true false true false false false = 0x0000#16 := and16_eq 0x0000#16 0x0000#16
  refine ⟨rfl, rfl, hzero, ?_, ?_⟩
  · rw [hzero]; rfl
  · rw [hzero]; rfl

/-- Settles O34: the identities are `BitVec`'s; the two codes are those of NEGY and DECY (R82). -/
theorem complementIdentities : Obligations.ComplementIdentities := by
  intro V W
  refine ⟨?_, ?_, ?_, codeOut_pseudo .negy V W, codeOut_pseudo .decy V W⟩
  · rw [not16_eq, BitVec.not_eq_neg_add]; rfl
  · rw [not16_eq, ← BitVec.allOnes_sub_eq_not]; rfl
  · rw [not16_eq, not16_eq, not16_eq, and16_eq, BitVec.not_and]

end Sys2Proof.Machine
end

section
/-! The 32 functions of the alu (R166, C7): every control code has a normal form that computes the same function, and the 32
normal forms differ on one pair of operands. -/

namespace Sys2Proof.Machine

/-- The control code of six Bits, in the order zx nx zy ny f no (R72). -/
def packCode (zx nx zy ny f no : Bit) : BitVec 6 :=
  .cons zx (.cons nx (.cons zy (.cons ny (.cons f (.cons no .nil)))))

theorem codeOut_packCode (zx nx zy ny f no : Bit) (x y : Word16) :
    codeOut (packCode zx nx zy ny f no) x y = aluOut x y zx nx zy ny f no := by
  simp [codeOut, packCode, BitVec.getElem_cons]

/-! What makes two codes compute the same function. -/

/-- 0 & y″ = 0 + 0. -/
theorem aluOut_zero_and (x y : Word16) (zy ny no : Bit) :
    aluOut x y true false zy ny false no = aluOut x y true false true false true no := by
  simp [aluOut_eq]

/-- x″ & 0 = 0 + 0. -/
theorem aluOut_and_zero (x y : Word16) (zx nx no : Bit) :
    aluOut x y zx nx true false false no = aluOut x y true false true false true no := by
  simp [aluOut_eq]

/-- x″ & 0xFFFF = x″ + 0. -/
theorem aluOut_and_ones (x y : Word16) (zx nx no : Bit) :
    aluOut x y zx nx true true false no = aluOut x y zx nx true false true no := by
  simp [aluOut_eq, and_ones]

/-- 0xFFFF & y″ = 0 + y″. -/
theorem aluOut_ones_and (x y : Word16) (zy ny no : Bit) :
    aluOut x y true true zy ny false no = aluOut x y true false zy ny true no := by
  simp [aluOut_eq, ones_and]

/-- In x″ + 0 the complements of nx and no are one complement, or none. -/
theorem aluOut_add_zero (x y : Word16) (zx nx no : Bit) :
    aluOut x y zx nx true false true no = aluOut x y zx false true false true (nx ^^ no) := by
  cases nx <;> cases no <;> simp [aluOut_eq]

/-- In 0 + y″ the complements of ny and no are one complement, or none. -/
theorem aluOut_zero_add (x y : Word16) (zy ny no : Bit) :
    aluOut x y true false zy ny true no = aluOut x y true false zy false true (ny ^^ no) := by
  cases ny <;> cases no <;> simp [aluOut_eq]

/-- The normal form of a control code: an AND with a constant as a sum with 0x0000, and a sum with 0x0000 with its complement
at the result. -/
def normalCode : Bit → Bit → Bit → Bit → Bit → Bit → BitVec 6
  | true, false, _, _, false, no => packCode true false true false true no
  | _, _, true, false, false, no => packCode true false true false true no
  | zx, nx, true, true, false, no => packCode zx false true false true (nx ^^ no)
  | true, true, zy, ny, false, no => packCode true false zy false true (ny ^^ no)
  | zx, nx, true, false, true, no => packCode zx false true false true (nx ^^ no)
  | true, false, zy, ny, true, no => packCode true false zy false true (ny ^^ no)
  | zx, nx, zy, ny, f, no => packCode zx nx zy ny f no

theorem codeOut_normalCode (zx nx zy ny f no : Bit) (x y : Word16) :
    codeOut (normalCode zx nx zy ny f no) x y = aluOut x y zx nx zy ny f no := by
  fun_cases normalCode with
  | case1 => rw [codeOut_packCode, aluOut_zero_and]
  | case2 => rw [codeOut_packCode, aluOut_and_zero]
  | case3 zx nx no => rw [codeOut_packCode, aluOut_and_ones, aluOut_add_zero x y zx nx]
  | case4 zy ny no => rw [codeOut_packCode, aluOut_ones_and, aluOut_zero_add x y zy ny]
  | case5 zx nx no => rw [codeOut_packCode, aluOut_add_zero x y zx nx]
  | case6 zy ny no => rw [codeOut_packCode, aluOut_zero_add x y zy ny]
  | case7 => rw [codeOut_packCode]

/-- The 32 normal forms: AND and OR of the operands or their complements, the constants and single operands, and the sums. -/
def normalCodes : List (BitVec 6) :=
  [0b000000#6, 0b000001#6, 0b000100#6, 0b000101#6, 0b010000#6, 0b010001#6, 0b010100#6, 0b010101#6,
    0b101010#6, 0b101011#6, 0b001010#6, 0b001011#6, 0b100010#6, 0b100011#6,
    0b000010#6, 0b000011#6, 0b000110#6, 0b000111#6, 0b010010#6, 0b010011#6, 0b010110#6, 0b010111#6,
    0b001110#6, 0b001111#6, 0b011110#6, 0b011111#6, 0b110010#6, 0b110011#6, 0b110110#6, 0b110111#6,
    0b111110#6, 0b111111#6]

theorem normalCode_mem : ∀ zx nx zy ny f no : Bit, normalCode zx nx zy ny f no ∈ normalCodes := by decide

/-- On x = 0x1234 and y = 0x00FF the 32 normal forms have 32 result words. -/
theorem normalCodes_differ :
    normalCodes.Pairwise fun r r' => codeOut r 0x1234#16 0x00FF#16 ≠ codeOut r' 0x1234#16 0x00FF#16 := by
  simp only [codeOut, aluOut_eq]
  decide

/-- Settles O35: every code computes what its normal form computes, and no two normal forms agree on all operands. -/
theorem thirtyTwoAluFunctions : Obligations.ThirtyTwoAluFunctions :=
  ⟨normalCodes, rfl, fun _ => ⟨_, normalCode_mem .., fun x y => (codeOut_normalCode _ _ _ _ _ _ x y).symm⟩,
    normalCodes_differ.imp fun h => ⟨_, _, h⟩⟩

end Sys2Proof.Machine
end

section
/-! The 64 control codes by family (R200 to R263): each code is one of four functions of two operand words (R164), each of
which is the operand, its complement or a constant; its closed form and its zr condition are then facts about words. -/

namespace Sys2Proof.Machine

/-- What the control bits z and n make of an operand: itself, its complement, or a constant (R164). -/
def operandWord : Bit → Bit → Word16 → Word16
  | false, false, w => w
  | false, true, w => ~~~w
  | true, false, _ => 0x0000#16
  | true, true, _ => 0xFFFF#16

/-- What the control bits f and no make of the two operand words: AND or ADD, or its complement (R155, R156). -/
def functionWord : Bit → Bit → Word16 → Word16 → Word16
  | false, false, a, b => a &&& b
  | false, true, a, b => ~~~(a &&& b)
  | true, false, a, b => a + b
  | true, true, a, b => ~~~(a + b)

theorem complementStage_zeroStage_eq_operandWord (w : Word16) (z n : Bit) :
    complementStage (zeroStage w z) n = operandWord z n w := by
  rw [complementStage_zeroStage]
  cases z <;> cases n <;> rfl

theorem complementStage_functionStage_eq_functionWord (a b : Word16) (f no : Bit) :
    complementStage (functionStage a b f) no = functionWord f no a b := by
  simp only [complementStage, functionStage, mux16_eq, not16_eq, and16_eq, adder16_eq]
  cases f <;> cases no <;> rfl

/-- The word that the rule of the control code c computes, before any simplification. -/
def codeWord (c : BitVec 6) (x y : Word16) : Word16 :=
  functionWord (c.getLsbD 1) (c.getLsbD 0) (operandWord (c.getLsbD 5) (c.getLsbD 4) x)
    (operandWord (c.getLsbD 3) (c.getLsbD 2) y)

theorem codeOut_eq_codeWord (c : BitVec 6) (x y : Word16) : codeOut c x y = codeWord c x y := by
  rw [codeWord, ← complementStage_functionStage_eq_functionWord, ← complementStage_zeroStage_eq_operandWord,
    ← complementStage_zeroStage_eq_operandWord]
  rfl

/-- A control code with an illegal element of an operand: the edge check finds those of x and y alone, since the control
ports are tied to literals. -/
theorem exec_ofCode_failsWith {s : State} {d : AluDest} {x y : WordSrc} {vx vy : Fin 16 → Byte} (c : BitVec 6)
    (hx : PresentsElems s x vx) (hy : PresentsElems s y vy) (hn : NewNames s d.names)
    (hv : (∃ i, 1#8 < vx i) ∨ ∃ i, 1#8 < vy i) :
    FailsWith (exec (Instr.ofCode c d x y) s) fun info =>
      info.unit = .alu ∧ (IllegalElem .x vx info ∨ IllegalElem .y vy info) := by
  rw [Instr.ofCode, exec_codeInstr, execAlu]
  refine evaluate_failsWith ?_ (aluOutputs_fst d _ ▸ hn) (fun info => ?_)
    (by simpa only [and_or_left, exists_or, exists_illegalElem] using hv)
  · simp [aluPorts, hx.ready, hy.ready, (presentsBit_lit s _).ready]
  · rw [mem_illegalInputs_iff_exists_port]
    simp [aluPorts, mem_illegalInputs_word hx, mem_illegalInputs_word hy, (presentsBit_lit s _).legal, and_or_left]

/-- A control code whose word is `g x y` meets its rule, with any reading of "the word is 0" as the zr condition. -/
theorem codeRule_of_zr {g : Word16 → Word16 → Word16} {zr : Word16 → Word16 → Bool} (c : BitVec 6)
    (hword : ∀ x y, codeWord c x y = g x y) (hzr : ∀ x y, decide (g x y = 0x0000#16) = zr x y) :
    CodeRule (c.setWidth 8) (Instr.ofCode c) g zr := by
  refine ⟨decode_code_setWidth c, fun s d x y vx vy hx hy hn => ?_, fun s d x y vx vy => exec_ofCode_failsWith c⟩
  rw [← hzr, ← hword, ← codeOut_eq_codeWord, ← aluOutputs_eq_aluNamed]
  exact exec_ofCode_yields c hx hy hn

/-- A control code whose word is `g x y`, and 0 exactly under the condition P. -/
theorem codeRule {g : Word16 → Word16 → Word16} {P : Word16 → Word16 → Prop} [∀ x y, Decidable (P x y)] (c : BitVec 6)
    (hword : ∀ x y, codeWord c x y = g x y) (hzr : ∀ x y, g x y = 0x0000#16 ↔ P x y) :
    CodeRule (c.setWidth 8) (Instr.ofCode c) g fun x y => decide (P x y) :=
  codeRule_of_zr c hword fun x y => decide_eq_decide.mpr (hzr x y)

/-- A control code whose word is the constant w, so that zr is one too. -/
theorem codeRule_const (c : BitVec 6) (w : Word16) (hword : ∀ x y, codeWord c x y = w) :
    CodeRule (c.setWidth 8) (Instr.ofCode c) (fun _ _ => w) fun _ _ => decide (w = 0x0000#16) :=
  codeRule_of_zr c hword fun _ _ => rfl

/-! The closed forms, from ~w = -w - 1 and De Morgan's laws. In the names `nots` is a complement of each operand. -/

/-- `BitVec.not_eq_neg_add` with its 1 as the ring's, which `ring` needs. -/
theorem not_eq_neg_sub_one (w : Word16) : ~~~w = -w - 1 := BitVec.not_eq_neg_add w

theorem not_add (x y : Word16) : ~~~(x + y) = -x - y - 1 := by rw [not_eq_neg_sub_one, neg_add']

theorem add_not (x y : Word16) : x + ~~~y = x - y - 1 := by rw [not_eq_neg_sub_one]; ring

theorem not_add_not (x y : Word16) : ~~~(x + ~~~y) = y - x := by rw [not_add, not_eq_neg_sub_one]; ring

theorem not_not_add (x y : Word16) : ~~~(~~~x + y) = x - y := by rw [BitVec.add_comm, not_add_not]

theorem left_not_add (x y : Word16) : ~~~x + y = y - x - 1 := by rw [BitVec.add_comm, add_not]

theorem nots_add (x y : Word16) : ~~~x + ~~~y = -x - y - 2 := by rw [add_not, not_eq_neg_sub_one]; ring

theorem not_nots_add (x y : Word16) : ~~~(~~~x + ~~~y) = x + y + 1 := by
  rw [not_not_add, not_eq_neg_sub_one]; ring

theorem not_add_ones (w : Word16) : ~~~(w + 0xFFFF#16) = -w := by rw [add_ones, not_eq_neg_sub_one]; ring

theorem not_and_not (x y : Word16) : ~~~(x &&& ~~~y) = ~~~x ||| y := by rw [BitVec.not_and, BitVec.not_not]

theorem not_not_and (x y : Word16) : ~~~(~~~x &&& y) = x ||| ~~~y := by rw [BitVec.not_and, BitVec.not_not]

theorem not_nots_and (x y : Word16) : ~~~(~~~x &&& ~~~y) = x ||| y := by
  rw [BitVec.not_and, BitVec.not_not, BitVec.not_not]

theorem not_ones_add (w : Word16) : ~~~(0xFFFF#16 + w) = -w := by rw [BitVec.add_comm, not_add_ones]

theorem not_sub_one (w : Word16) : ~~~w - 1 = -w - 2 := by rw [not_eq_neg_sub_one]; ring

theorem neg_not (w : Word16) : -~~~w = w + 1 := by rw [not_eq_neg_sub_one]; ring

/-! The zr conditions: when a closed form is 0x0000. -/

theorem not_eq_zero_iff (w : Word16) : ~~~w = 0x0000#16 ↔ w = 0xFFFF#16 := by
  rw [← BitVec.not_inj, BitVec.not_not]; rfl

theorem not_and_eq_zero_iff (x y : Word16) : ~~~(x &&& y) = 0x0000#16 ↔ x = 0xFFFF#16 ∧ y = 0xFFFF#16 := by
  rw [not_eq_zero_iff]; exact BitVec.and_eq_allOnes_iff

theorem not_or_eq_zero_iff (x y : Word16) : ~~~x ||| y = 0x0000#16 ↔ x = 0xFFFF#16 ∧ y = 0x0000#16 := by
  rw [BitVec.or_eq_zero_iff, not_eq_zero_iff]

theorem or_not_eq_zero_iff (x y : Word16) : x ||| ~~~y = 0x0000#16 ↔ x = 0x0000#16 ∧ y = 0xFFFF#16 := by
  rw [BitVec.or_eq_zero_iff, not_eq_zero_iff]

theorem add_one_eq_zero_iff (w : Word16) : w + 1 = 0x0000#16 ↔ w = 0xFFFF#16 := add_eq_zero_iff_eq_neg

theorem neg_sub_two_eq_zero_iff (w : Word16) : -w - 2 = 0x0000#16 ↔ w = 0xFFFE#16 :=
  sub_eq_zero.trans neg_eq_iff_eq_neg

theorem sub_sub_one_eq_zero_iff (x y : Word16) : x - y - 1 = 0x0000#16 ↔ x = y + 1 := by
  rw [sub_sub]; exact sub_eq_zero

theorem neg_sub_sub_one_eq_zero_iff (x y : Word16) : -x - y - 1 = 0x0000#16 ↔ y = ~~~x := by
  rw [not_eq_neg_sub_one, sub_right_comm]; exact sub_eq_zero.trans eq_comm

theorem neg_sub_sub_two_eq_zero_iff (x y : Word16) : -x - y - 2 = 0x0000#16 ↔ x + y = 0xFFFE#16 := by
  rw [← neg_add']; exact neg_sub_two_eq_zero_iff (x + y)

/-- Settles O23: AND and ADD of x with y and with ~y. -/
theorem aluCodesXWithY : Obligations.AluCodesXWithY :=
  ⟨codeRule 0b000000#6 (fun _ _ => rfl) (fun _ _ => Iff.rfl),
    codeRule 0b000001#6 (fun _ _ => rfl) not_and_eq_zero_iff,
    codeRule 0b000010#6 (fun _ _ => rfl) (fun _ _ => add_eq_zero_iff_eq_neg'),
    codeRule 0b000011#6 not_add neg_sub_sub_one_eq_zero_iff,
    codeRule 0b000100#6 (fun _ _ => rfl) (fun _ _ => Iff.rfl),
    codeRule 0b000101#6 not_and_not not_or_eq_zero_iff,
    codeRule 0b000110#6 add_not sub_sub_one_eq_zero_iff,
    codeRule 0b000111#6 not_add_not (fun _ _ => sub_eq_zero.trans eq_comm)⟩

/-- Settles O24: AND and ADD of x with 0x0000 and with 0xFFFF. -/
theorem aluCodesXWithConstant : Obligations.AluCodesXWithConstant :=
  ⟨codeRule_const 0b001000#6 _ fun _ _ => BitVec.and_zero,
    codeRule_const 0b001001#6 _ fun _ _ => congrArg (~~~·) BitVec.and_zero,
    codeRule 0b001010#6 (fun _ _ => BitVec.add_zero _) (fun _ _ => Iff.rfl),
    codeRule 0b001011#6 (fun _ _ => congrArg (~~~·) (BitVec.add_zero _)) (fun x _ => not_eq_zero_iff x),
    codeRule 0b001100#6 (fun _ _ => and_ones _) (fun _ _ => Iff.rfl),
    codeRule 0b001101#6 (fun _ _ => congrArg (~~~·) (and_ones _)) (fun x _ => not_eq_zero_iff x),
    codeRule 0b001110#6 (fun _ _ => add_ones _) (fun _ _ => sub_eq_zero),
    codeRule 0b001111#6 (fun _ _ => not_add_ones _) (fun _ _ => neg_eq_zero)⟩

/-- Settles O25: AND and ADD of ~x with y and with ~y. -/
theorem aluCodesNotXWithY : Obligations.AluCodesNotXWithY :=
  ⟨codeRule 0b010000#6 (fun _ _ => rfl) (fun _ _ => Iff.rfl),
    codeRule 0b010001#6 not_not_and or_not_eq_zero_iff,
    codeRule 0b010010#6 left_not_add (fun x y => sub_sub_one_eq_zero_iff y x),
    codeRule 0b010011#6 not_not_add (fun _ _ => sub_eq_zero),
    codeRule 0b010100#6 (fun _ _ => BitVec.not_or.symm) (fun x y => not_eq_zero_iff (x ||| y)),
    codeRule 0b010101#6 not_nots_and (fun _ _ => BitVec.or_eq_zero_iff),
    codeRule 0b010110#6 nots_add neg_sub_sub_two_eq_zero_iff,
    codeRule 0b010111#6 not_nots_add (fun x y => add_one_eq_zero_iff (x + y))⟩

/-- Settles O26: AND and ADD of ~x with 0x0000 and with 0xFFFF. -/
theorem aluCodesNotXWithConstant : Obligations.AluCodesNotXWithConstant :=
  ⟨codeRule_const 0b011000#6 _ fun _ _ => BitVec.and_zero,
    codeRule_const 0b011001#6 _ fun _ _ => congrArg (~~~·) BitVec.and_zero,
    codeRule 0b011010#6 (fun _ _ => BitVec.add_zero _) (fun x _ => not_eq_zero_iff x),
    codeRule 0b011011#6 (fun _ _ => (congrArg (~~~·) (BitVec.add_zero _)).trans BitVec.not_not) (fun _ _ => Iff.rfl),
    codeRule 0b011100#6 (fun _ _ => and_ones _) (fun x _ => not_eq_zero_iff x),
    codeRule 0b011101#6 (fun _ _ => (congrArg (~~~·) (and_ones _)).trans BitVec.not_not) (fun _ _ => Iff.rfl),
    codeRule 0b011110#6 (fun x _ => (add_ones _).trans (not_sub_one x)) (fun x _ => neg_sub_two_eq_zero_iff x),
    codeRule 0b011111#6 (fun x _ => (not_add_ones _).trans (neg_not x)) (fun x _ => add_one_eq_zero_iff x)⟩

/-- Settles O27: AND and ADD of 0x0000 with y and with ~y. -/
theorem aluCodesZeroWithY : Obligations.AluCodesZeroWithY :=
  ⟨codeRule_const 0b100000#6 _ fun _ _ => BitVec.zero_and,
    codeRule_const 0b100001#6 _ fun _ _ => congrArg (~~~·) BitVec.zero_and,
    codeRule 0b100010#6 (fun _ _ => BitVec.zero_add _) (fun _ _ => Iff.rfl),
    codeRule 0b100011#6 (fun _ _ => congrArg (~~~·) (BitVec.zero_add _)) (fun _ y => not_eq_zero_iff y),
    codeRule_const 0b100100#6 _ fun _ _ => BitVec.zero_and,
    codeRule_const 0b100101#6 _ fun _ _ => congrArg (~~~·) BitVec.zero_and,
    codeRule 0b100110#6 (fun _ _ => BitVec.zero_add _) (fun _ y => not_eq_zero_iff y),
    codeRule 0b100111#6 (fun _ _ => (congrArg (~~~·) (BitVec.zero_add _)).trans BitVec.not_not) (fun _ _ => Iff.rfl)⟩

/-- Settles O28: AND and ADD of 0x0000 with 0x0000 and with 0xFFFF. -/
theorem aluCodesZeroWithConstant : Obligations.AluCodesZeroWithConstant :=
  ⟨codeRule_const 0b101000#6 _ fun _ _ => BitVec.zero_and,
    codeRule_const 0b101001#6 _ fun _ _ => congrArg (~~~·) BitVec.zero_and,
    codeRule_const 0b101010#6 _ fun _ _ => BitVec.zero_add 0x0000#16,
    codeRule_const 0b101011#6 _ fun _ _ => congrArg (~~~·) (BitVec.zero_add 0x0000#16),
    codeRule_const 0b101100#6 _ fun _ _ => BitVec.zero_and,
    codeRule_const 0b101101#6 _ fun _ _ => congrArg (~~~·) BitVec.zero_and,
    codeRule_const 0b101110#6 _ fun _ _ => BitVec.zero_add 0xFFFF#16,
    codeRule_const 0b101111#6 _ fun _ _ => congrArg (~~~·) (BitVec.zero_add 0xFFFF#16)⟩

/-- Settles O29: AND and ADD of 0xFFFF with y and with ~y. -/
theorem aluCodesOnesWithY : Obligations.AluCodesOnesWithY :=
  ⟨codeRule 0b110000#6 (fun _ _ => ones_and _) (fun _ _ => Iff.rfl),
    codeRule 0b110001#6 (fun _ _ => congrArg (~~~·) (ones_and _)) (fun _ y => not_eq_zero_iff y),
    codeRule 0b110010#6 (fun _ _ => ones_add _) (fun _ _ => sub_eq_zero),
    codeRule 0b110011#6 (fun _ _ => not_ones_add _) (fun _ _ => neg_eq_zero),
    codeRule 0b110100#6 (fun _ _ => ones_and _) (fun _ y => not_eq_zero_iff y),
    codeRule 0b110101#6 (fun _ _ => (congrArg (~~~·) (ones_and _)).trans BitVec.not_not) (fun _ _ => Iff.rfl),
    codeRule 0b110110#6 (fun _ y => (ones_add _).trans (not_sub_one y)) (fun _ y => neg_sub_two_eq_zero_iff y),
    codeRule 0b110111#6 (fun _ y => (not_ones_add _).trans (neg_not y)) (fun _ y => add_one_eq_zero_iff y)⟩

/-- Settles O30: AND and ADD of 0xFFFF with 0x0000 and with 0xFFFF. -/
theorem aluCodesOnesWithConstant : Obligations.AluCodesOnesWithConstant :=
  ⟨codeRule_const 0b111000#6 _ fun _ _ => ones_and 0x0000#16,
    codeRule_const 0b111001#6 _ fun _ _ => congrArg (~~~·) (ones_and 0x0000#16),
    codeRule_const 0b111010#6 _ fun _ _ => ones_add 0x0000#16,
    codeRule_const 0b111011#6 _ fun _ _ => not_ones_add 0x0000#16,
    codeRule_const 0b111100#6 _ fun _ _ => ones_and 0xFFFF#16,
    codeRule_const 0b111101#6 _ fun _ _ => congrArg (~~~·) (ones_and 0xFFFF#16),
    codeRule_const 0b111110#6 _ fun _ _ => ones_add 0xFFFF#16,
    codeRule_const 0b111111#6 _ fun _ _ => not_ones_add 0xFFFF#16⟩

end Sys2Proof.Machine
end

section
/-! How an evaluation ends (spec/60_exceptions.md): refused on a port that is not driven (R318), else Ok or one DomainError
as the edge check finds (R305, R306); no DomainError on legal values or with RAW_BITS off (R310); and the run invariant. -/

namespace Sys2Proof.Machine

/-- Settles O47: a step is the evaluation of the next line, which keeps the invariant, and taking the line off changes no
value. -/
theorem stepKeepsRunInvariant : Obligations.StepKeepsRunInvariant := by
  intro s t hs h
  obtain ⟨l, ls, i, -, -, he⟩ := step_eq_next.mp h
  have hfetched : State.Inv { s with lines := ls, evaluated := s.evaluated ++ [l] } := hs
  exact exec_next_inv he hfetched

/-! Ok, or one DomainError. -/

/-- An instruction with no illegal input, otherwise ready, answers a next state. -/
theorem exec_next_of_no_illegalInput {i : Instr} {s : State} (hp : ∀ p ∈ i.ports, PortReady s p)
    (hn : NewNames s i.dests) (hi : ∀ info, ¬IllegalInput s i info) : ∃ t, exec i s = .next t := by
  obtain ⟨outs, he, hd, -⟩ := exec_eq_evaluate i s
  have hnil : illegalInputs s i.cell i.ports = [] :=
    List.eq_nil_iff_forall_not_mem.mpr fun info hm => hi info ((mem_illegalInputs_iff s i info).mp hm)
  exact ⟨_, he.trans (evaluate_eq_next.mpr ⟨hp, hd ▸ hn, hnil, rfl⟩)⟩

theorem InputsDriven.ready {s : State} {i : Instr} (h : InputsDriven s i) : ∀ p ∈ i.ports, PortReady s p :=
  fun p hp => (portReady_iff_portDriven s p).mpr (h p hp)

/-- Settles O37: past the ports and the names, the edge check alone decides. -/
theorem edgeCheckDecidesOutcome : Obligations.EdgeCheckDecidesOutcome := fun _ _ hp hn =>
  ⟨exec_next_of_no_illegalInput hp.ready hn, fun ⟨_, hi⟩ => exec_fails hp.ready hn hi⟩

/-! When a DomainError is raised. -/

/-- An illegal Bit at a driven port is a raw one, so RAW_BITS is on (D2). -/
theorem IllegalInput.rawBits {s : State} {i : Instr} {info : DomainInfo} (h : IllegalInput s i info)
    (hp : InputsDriven s i) : s.rawBits = true := by
  obtain ⟨-, -, p, hmem, -, n, hsrc, hraw⟩ := h
  have hdriven := hp p hmem
  rw [PortDriven, hsrc] at hdriven
  obtain ⟨v, hv, -, hon⟩ := hdriven
  refine hon ?_
  rcases hraw with ⟨hg, -⟩ | ⟨r, k, hg, -⟩
  · cases hv.symm.trans hg; rfl
  · cases hv.symm.trans hg; rfl

/-- A DomainError comes after every refusal: the ports are driven and the names new. -/
theorem exec_fault_inv {i : Instr} {s : State} {f : Fault} (h : exec i s = .fault f) :
    InputsDriven s i ∧ NewNames s i.dests ∧ ∃ info, f = .domainError info ∧ IllegalInput s i info := by
  obtain ⟨hp, hinfo⟩ := exec_eq_fault h
  refine ⟨fun p hm => (portReady_iff_portDriven s p).mp (hp p hm), ?_, hinfo⟩
  by_contra hn
  obtain ⟨⟨r, hr⟩, -⟩ := namesAreSingleAssignment i s hn
  cases h.symm.trans hr

/-- Settles O38: a fault is an illegal input of a ready evaluation, and a ready evaluation with one is a fault. -/
theorem domainErrorOnlyFromIllegalInput : Obligations.DomainErrorOnlyFromIllegalInput := by
  refine ⟨fun i s f h => ?_, fun i s => ⟨fun ⟨f, h⟩ => ?_, fun ⟨hp, hn, info, hi⟩ => ?_⟩⟩
  · obtain ⟨hp, -, info, rfl, hi⟩ := exec_fault_inv h
    exact ⟨rfl, hi.rawBits hp, info, rfl, hi⟩
  · obtain ⟨hp, hn, info, -, hi⟩ := exec_fault_inv h
    exact ⟨hp, hn, info, hi⟩
  · obtain ⟨drawn, hf, -⟩ := exec_fails hp.ready hn hi
    exact ⟨_, hf⟩

/-! No DomainError: the reasons that hold of a state whatever its lines. -/

/-- A step is a DomainError only if the evaluation of the next line is one. -/
theorem noDomainError_step {s : State}
    (h : ∀ i l ls, NoDomainError (exec i { s with lines := ls, evaluated := s.evaluated ++ [l] })) :
    NoDomainError (step s) := by
  intro info hs
  cases hl : s.lines with
  | nil => simp [step, fetch_eq_none.mpr hl] at hs
  | cons l ls =>
    cases hd : decode l with
    | error e => simp [step, fetch_eq_some.mpr ⟨ls, hl, rfl⟩, hd] at hs
    | ok i => exact h i l ls info ((step_of_decode hl hd).symm.trans hs)

theorem exec_noDomainError_of_rawBits_off {s : State} (h : s.rawBits = false) (i : Instr) :
    NoDomainError (exec i s) := by
  intro info he
  obtain ⟨-, hon, -⟩ := domainErrorOnlyFromIllegalInput.1 i s _ he
  exact Bool.false_ne_true (h.symm.trans hon)

theorem exec_noDomainError_of_legal {s : State} (h : s.legal = true) (i : Instr) : NoDomainError (exec i s) := by
  intro info he
  obtain ⟨-, -, info', -, hi⟩ := exec_fault_inv he
  have hmem := (mem_illegalInputs_iff s i info').mpr hi
  rw [illegalInputs_of_legal h] at hmem
  cases hmem

/-- Settles O39: an illegal input would be a raw one, which no driven port presents with RAW_BITS off. -/
theorem twoValuedInterfaceAlwaysOk : Obligations.TwoValuedInterfaceAlwaysOk := by
  intro s hoff
  refine ⟨noDomainError_step fun i _ _ => exec_noDomainError_of_rawBits_off (by exact hoff) i, fun i =>
    ⟨exec_noDomainError_of_rawBits_off hoff i, fun hp hn => exec_next_of_no_illegalInput hp.ready hn fun info hi => ?_⟩⟩
  exact Bool.false_ne_true (hoff.symm.trans (hi.rawBits hp))

/-- Settles O48: the edge check of every unit passes on legal values, and taking a line off changes none. -/
theorem legalRunHasNoDomainError : Obligations.LegalRunHasNoDomainError := fun _ h =>
  ⟨noDomainError_step fun i _ _ => exec_noDomainError_of_legal (by exact h) i, exec_noDomainError_of_legal h⟩

/-! The refusal of a port (R318), named in port order. -/

/-- An instruction with a port that is not driven is refused, for the reason of such a port. -/
theorem exec_refused_by_port {i : Instr} {s : State} (h : ∃ p ∈ i.ports, ¬PortDriven s p) :
    ∃ p ∈ i.ports, ∃ r, portRefusal s i.cell i.dests p = some r ∧ exec i s = .refused r := by
  obtain ⟨outs, he, hd, -⟩ := exec_eq_evaluate i s
  cases hr : i.ports.findSome? (portRefusal s i.cell i.dests) with
  | none =>
    obtain ⟨p, hp, hn⟩ := h
    have hnone := List.findSome?_eq_none_iff.mp hr p hp
    exact absurd ((portReady_iff_portDriven s p).mp (portReady_of_no_refusal hnone)) hn
  | some r =>
    obtain ⟨p, hp, hpr⟩ := List.exists_of_findSome?_eq_some hr
    have hrefusal : evaluationRefusal s i.cell i.ports (outs.map Prod.fst) = some r := by
      simp [evaluationRefusal, hd, hr]
    exact ⟨p, hp, r, hpr, he.trans (evaluate_refused hrefusal)⟩

/-- Where every port that is not driven has the same reason, the refusal names it. -/
theorem exec_refused_of_ports {i : Instr} {s : State} {r : Refusal} (h : ∃ p ∈ i.ports, ¬PortDriven s p)
    (hr : ∀ p ∈ i.ports, PortDriven s p ∨ portRefusal s i.cell i.dests p = some r) : exec i s = .refused r := by
  obtain ⟨p, hp, r', hr', he⟩ := exec_refused_by_port h
  rcases hr p hp with hdriven | hsame
  · cases (((portReady_iff_portDriven s p).mpr hdriven).no_refusal _ _).symm.trans hr'
  · cases hsame.symm.trans hr'
    exact he

theorem srcValue_of_net {s : State} {p : PortUse} {n : Name} (h : p.src = .net n) : srcValue s p.src = s.nets.get n :=
  congrArg (srcValue s) h

theorem portRefusal_undriven {s : State} {u : Cell} {dests : List Name} {p : PortUse} {n : Name} (hsrc : p.src = .net n)
    (hg : s.nets.get n = none) (hd : n ∉ dests) (hl : ∀ l ∈ s.lines, n ∉ l.outs) :
    portRefusal s u dests p = some (.undrivenInput u) := by
  have hpending : n ∉ s.pending := fun h => by
    obtain ⟨l, hm, ho⟩ := List.mem_flatMap.mp h
    exact hl l hm ho
  simp [portRefusal, hsrc, srcValue, hg, hd, hpending]

theorem portRefusal_width {s : State} {u : Cell} {dests : List Name} {p : PortUse} {v : Value}
    (hv : srcValue s p.src = some v) (hw : v.width ≠ p.width) :
    portRefusal s u dests p = some (.widthMismatch u) := by
  simp [portRefusal, hv, hw]

theorem portRefusal_raw {s : State} {u : Cell} {dests : List Name} {p : PortUse} {v : Value}
    (hv : srcValue s p.src = some v) (hw : v.width = p.width) (hraw : v.isRaw = true) (hoff : s.rawBits = false) :
    portRefusal s u dests p = some (.rawBitsOff u) := by
  simp [portRefusal, hv, hw, hraw, hoff]

/-- Settles O40: a port not driven refuses the instruction, and each clause gives all such ports one reason. -/
theorem undrivenInputHasNoOutcome : Obligations.UndrivenInputHasNoOutcome := by
  intro i s h
  refine ⟨?_, fun hu => exec_refused_of_ports h fun p hp => (hu p hp).imp_right ?_,
    fun hw => exec_refused_of_ports h fun p hp => (hw p hp).imp_right ?_,
    fun hr => exec_refused_of_ports h fun p hp => (hr p hp).imp_right ?_⟩
  · obtain ⟨-, -, r, -, he⟩ := exec_refused_by_port h
    exact ⟨r, he⟩
  · rintro ⟨n, hsrc, hg, hd, hl⟩
    exact portRefusal_undriven hsrc hg hd hl
  · rintro ⟨n, v, hsrc, hg, hw⟩
    exact portRefusal_width ((srcValue_of_net hsrc).trans hg) hw
  · rintro ⟨n, v, hsrc, hg, hw, hraw, hoff⟩
    exact portRefusal_raw ((srcValue_of_net hsrc).trans hg) hw hraw hoff

end Sys2Proof.Machine
end

section
/-! Outputs follow the present inputs (R331): what it takes for an evaluated line to stay settled, and that a step, a drive, a
release and a load each leave it that. -/

namespace Sys2Proof.Machine

/-! One line. -/

/-- Names just undriven are new. -/
theorem newNames_eraseAll (s : State) {ns : List Name} (h : ns.Nodup) :
    NewNames { s with nets := s.nets.eraseAll ns } ns :=
  ⟨h, fun n hn => (get_eraseAll s.nets ns n).trans (if_pos hn)⟩

/-- A line that has just been evaluated is settled: its inputs are none of its outputs, so they still present the same. -/
theorem lineSettled_of_exec {s t : State} {l : Line} {i : Instr} (hd : decode l = .ok i) (h : exec i s = .next t) :
    LineSettled t l := by
  obtain ⟨-, -, -, huses, -, -, hraw⟩ := evaluationChangesOnlyItsOutputs i s t h
  obtain ⟨-, -, -, -, -, hnew, -, -⟩ := exec_eq_next h
  have hsame : SameInputs s { t with nets := t.nets.eraseAll i.dests } i := ⟨hraw.symm, fun n hu => by
    obtain ⟨hn, hget⟩ := huses n hu
    rw [get_eraseAll, if_neg hn, hget]⟩
  obtain ⟨t', ht', hout⟩ := hsame.next (newNames_eraseAll t hnew.1) h
  exact ⟨i, t', hd, ht', hout⟩

/-- Whether a line is settled depends on what its own names carry and on the interface alone. -/
theorem LineSettled.congr {s t : State} {l : Line} (h : LineSettled s l) (hraw : t.rawBits = s.rawBits)
    (hget : ∀ n, n ∈ l.uses ∨ n ∈ l.outs → t.nets.get n = s.nets.get n) : LineSettled t l := by
  obtain ⟨i, u, hd, hu, hout⟩ := h
  obtain ⟨hdests, huses⟩ := decode_names hd
  obtain ⟨-, -, -, -, -, hnew, -, -⟩ := exec_eq_next hu
  have hsame : SameInputs { s with nets := s.nets.eraseAll i.dests } { t with nets := t.nets.eraseAll i.dests } i :=
    ⟨hraw.symm, fun n hn => by rw [get_eraseAll, get_eraseAll, hget n (Or.inl (huses ▸ hn))]⟩
  obtain ⟨u', hu', hout'⟩ := hsame.next (newNames_eraseAll t hnew.1) hu
  exact ⟨i, u', hd, hu', fun n hn =>
    calc u'.nets.get n = u.nets.get n := hout' n hn
      _ = s.nets.get n := hout n hn
      _ = t.nets.get n := (hget n (Or.inr (hdests ▸ hn))).symm⟩

/-- An evaluation that answers a next state drives its outputs. -/
theorem exec_drives_dests {i : Instr} {s t : State} (h : exec i s = .next t) {n : Name} (hn : n ∈ i.dests) :
    t.nets.get n ≠ none := by
  obtain ⟨outs, hdests, -, -, -, hnew, -, rfl⟩ := exec_eq_next h
  obtain ⟨o, ho, rfl⟩ := List.mem_map.mp (hdests ▸ hn)
  exact Option.ne_none_iff_exists'.mpr ⟨o.2, get_setAll_mem s.nets (hdests ▸ hnew.1) ho⟩

/-- Every name of a settled line is driven. -/
theorem LineSettled.driven {s : State} {l : Line} (h : LineSettled s l) {n : Name} (hn : n ∈ l.uses ∨ n ∈ l.outs) :
    s.nets.get n ≠ none := by
  obtain ⟨i, u, hd, hu, hout⟩ := h
  obtain ⟨hdests, huses⟩ := decode_names hd
  rcases hn with hn | hn
  · obtain ⟨-, -, -, -, hports, -, -, -⟩ := exec_eq_next hu
    obtain ⟨p, hp, hsrc⟩ := (mem_uses_iff i n).mp (huses ▸ hn)
    have hdriven := (hports p hp).net_driven hsrc
    rw [get_eraseAll] at hdriven
    exact fun hnone => hdriven (by simp [hnone])
  · rw [← hdests] at hn
    exact hout n hn ▸ exec_drives_dests hu hn

/-! The evaluated lines together. -/

/-- Fewer evaluated lines, the names of each carrying what they carried, are settled as before. -/
theorem State.Settled.of_sublist {s t : State} (h : s.Settled) (hsub : t.evaluated.Sublist s.evaluated)
    (hraw : t.rawBits = s.rawBits)
    (hget : ∀ k ∈ t.evaluated, ∀ n, n ∈ k.uses ∨ n ∈ k.outs → t.nets.get n = s.nets.get n) : t.Settled :=
  ⟨fun k hk => (h.1 k (hsub.subset hk)).congr hraw (hget k hk), h.2.sublist hsub⟩

/-- The line a step evaluates is settled, and as its outputs were undriven, they are no names of a line before. -/
theorem settled_step {s t : State} (h : s.Settled) (hstep : step s = .next t) : t.Settled := by
  obtain ⟨hsettled, hpairwise⟩ := h
  obtain ⟨l, ls, i, -, hd, he⟩ := step_eq_next.mp hstep
  obtain ⟨hnew, -, hframe, -, -, heval, hraw⟩ := evaluationChangesOnlyItsOutputs i _ t he
  rw [(decode_names hd).1] at hnew hframe
  have hapart : ∀ k ∈ s.evaluated, ∀ n, n ∈ k.uses ∨ n ∈ k.outs → n ∉ l.outs := fun k hk n hn ho =>
    (hsettled k hk).driven hn (hnew n ho)
  rw [State.Settled, heval]
  constructor
  · intro k hk
    rcases List.mem_append.mp hk with hk | hk
    · exact (hsettled k hk).congr hraw fun n hn => hframe n (hapart k hk n hn)
    · rw [List.mem_singleton.mp hk]
      exact lineSettled_of_exec hd he
  · refine List.pairwise_append.mpr ⟨hpairwise, List.pairwise_singleton .., fun k hk l' hl' n hn => ?_⟩
    rw [List.mem_singleton.mp hl'] at hn
    exact ⟨fun hk' => hapart k hk n (Or.inr hk') hn, fun hk' => hapart k hk n (Or.inl hk') hn⟩

/-- What a name reads after a release: nothing if it is the name released or an output of a line reached. -/
theorem get_release (s : State) (n m : Name) :
    (s.release n).nets.get m =
      if m = n ∨ ∃ l ∈ (splitStale [n] s.evaluated).2, m ∈ l.outs then none else s.nets.get m := by
  simp [get_eraseAll]

/-- In a settled state a line that a change of the name does not reach has neither that name nor an output of a line reached
among its own. -/
theorem State.Settled.kept_apart {s : State} (h : s.Settled) {n m : Name} {k : Line}
    (hk : k ∈ (splitStale [n] s.evaluated).1) (hm : m = n ∨ ∃ l ∈ (splitStale [n] s.evaluated).2, m ∈ l.outs) :
    m ∉ k.uses ∧ m ∉ k.outs :=
  kept_disjoint h.2 hk (by simpa using hm)

theorem settled_release {s : State} (h : s.Settled) (n : Name) : (s.release n).Settled := by
  refine h.of_sublist (splitStale_sublist [n] s.evaluated).1 rfl fun k hk m hm => ?_
  rw [get_release, if_neg fun hreached => ?_]
  obtain ⟨huses, houts⟩ := h.kept_apart hk hreached
  exact hm.elim huses houts

theorem settled_drive {s : State} (h : s.Settled) (n : Name) (v : Value) : (s.drive n v).Settled := by
  by_cases hv : s.nets.get n = some v
  · rwa [drive_of_eq hv]
  · rw [drive_of_ne hv]
    refine (settled_release h n).of_sublist (List.Sublist.refl _) rfl fun k hk m hm => get_set_other _ _ ?_
    rintro rfl
    obtain ⟨huses, houts⟩ := h.kept_apart hk (Or.inl rfl)
    exact hm.elim huses houts

theorem settled_load {s : State} (h : s.Settled) (ls : List Line) : (s.load ls).Settled :=
  h.of_sublist (List.Sublist.refl _) rfl fun _ _ _ _ => rfl

/-- Settles O55: a step settles its own line and leaves the names of the others; the lines a change does not reach keep
theirs. -/
theorem outputsFollowPresentInputs : Obligations.OutputsFollowPresentInputs :=
  ⟨fun _ _ h hstep => settled_step h hstep, fun _ n v h => settled_drive h n v, fun _ n h => settled_release h n,
    fun _ ls h => settled_load h ls⟩

/-- Settles O54: no line is evaluated at reset. -/
theorem resetIsSettled : Obligations.ResetIsSettled :=
  ⟨fun _ hl => absurd hl List.not_mem_nil, List.Pairwise.nil⟩

end Sys2Proof.Machine
end

section
/-! Feedback and order (R335, R81): a line that uses a name it defines, or one defined only later, is refused, so what runs to
its end is an acyclic netlist. -/

namespace Sys2Proof.Machine

theorem exists_feedback {i : Instr} (h : i.noFeedback = false) : ∃ n ∈ i.uses, n ∈ i.dests := by
  simpa [Instr.noFeedback] using h

/-- An undriven name that the instruction or a line to come defines is used before it is defined. -/
theorem portRefusal_usedBeforeDefined {s : State} {u : Cell} {dests : List Name} {p : PortUse} {n : Name}
    (hsrc : p.src = .net n) (hg : s.nets.get n = none) (hd : n ∈ dests ∨ ∃ l ∈ s.lines, n ∈ l.outs) :
    portRefusal s u dests p = some (.usedBeforeDefined u) := by
  have hdefined : n ∈ dests ∨ n ∈ s.pending := hd.imp_right List.mem_flatMap.mpr
  simp [portRefusal, hsrc, srcValue, hg, hdefined]

/-- Settles O41: a name both used and defined is driven, and so not new, or undriven, and so a port is not driven. -/
theorem feedbackIsRefused : Obligations.FeedbackIsRefused := by
  refine fun i s => ⟨fun hfb => ?_, fun hport hall => exec_refused_of_ports hport fun p hp => (hall p hp).imp_right ?_⟩
  · obtain ⟨n, hu, hd⟩ := exists_feedback hfb
    by_cases hnew : NewNames s i.dests
    · obtain ⟨p, hp, hsrc⟩ := (mem_uses_iff i n).mp hu
      have hundriven : ¬PortDriven s p := fun h =>
        ((portReady_iff_portDriven s p).mpr h).net_driven hsrc (hnew.2 n hd)
      obtain ⟨-, -, r, -, he⟩ := exec_refused_by_port ⟨p, hp, hundriven⟩
      exact ⟨r, he⟩
    · exact (namesAreSingleAssignment i s hnew).1
  · rintro ⟨n, hsrc, hg, hd⟩
    exact portRefusal_usedBeforeDefined hsrc hg hd

/-- A port that is ready is wired to a source of its width. -/
theorem PortReady.width {s : State} {p : PortUse} (h : PortReady s p) : p.src.width? s.types = some p.width := by
  obtain ⟨v, hv, hw, -⟩ := h
  rw [width?_types, hv, Option.map_some, hw]

/-- An evaluation that answers a next state puts a well-formed line before a netlist well formed over the state after it. -/
theorem wellFormed_cons_of_exec {s t : State} {i : Instr} {is : List Instr} (h : exec i s = .next t)
    (his : Netlist.wellFormed t.types is = true) : Netlist.wellFormed s.types (i :: is) = true := by
  obtain ⟨-, -, -, -, hports, hnew, -, -⟩ := exec_eq_next h
  have hfb : i.noFeedback = true := by
    by_contra hfb
    obtain ⟨n, hu, hd⟩ := exists_feedback (Bool.eq_false_iff.mpr hfb)
    exact not_mem_dests_of_mem_uses hports hnew hu hd
  refine Netlist.wellFormed_cons.mpr ⟨hnew.1, hfb, fun p hp => (hports p hp).width, fun n hn => ?_, ?_⟩
  · rw [get_types, hnew.2 n hn, Option.map_none]
  · rw [← Netlist.wellFormed_congr (get_types_exec h)]
    exact his

/-- A run of one step more that answers a next state is a step that does and the run after it. -/
theorem run_succ_eq_next {s t : State} {k : Nat} :
    Host.Core.run core (k + 1) s = .next t ↔ ∃ u, step s = .next u ∧ Host.Core.run core k u = .next t := by
  constructor
  · intro h
    cases hstep : step s with
    | next u => exact ⟨u, rfl, run_succ_of_step hstep k ▸ h⟩
    | fault f =>
      have hcore : core.step s = .fault f := hstep
      simp [Host.Core.run, hcore] at h
    | refused r =>
      have hcore : core.step s = .refused r := hstep
      simp [Host.Core.run, hcore] at h
  · rintro ⟨u, hstep, hrun⟩
    rwa [run_succ_of_step hstep]

/-- What a step that answers a next state does with the lines: the first one is evaluated. -/
theorem step_lines {s t : State} (h : step s = .next t) :
    ∃ l, s.lines = l :: t.lines ∧ t.evaluated = s.evaluated ++ [l] := by
  obtain ⟨l, ls, i, hl, -, he⟩ := step_eq_next.mp h
  obtain ⟨-, -, -, -, hlines, heval, -⟩ := evaluationChangesOnlyItsOutputs i _ t he
  exact ⟨l, by rw [hl, hlines], heval⟩

/-- Settles O50, by induction on the lines: the step on the first one leaves a state over which the others are well formed. -/
theorem completedNetlistWasWellFormed : Obligations.CompletedNetlistWasWellFormed := by
  intro s t
  induction hls : s.lines generalizing s with
  | nil => exact fun _ => ⟨[], rfl, rfl⟩
  | cons l ls ih =>
    intro h
    obtain ⟨u, hstep, hrun⟩ := run_succ_eq_next.mp h
    obtain ⟨l', ls', i, hl, hd, he⟩ := step_eq_next.mp hstep
    cases hls.symm.trans hl
    obtain ⟨-, -, -, -, hlines, -, -⟩ := evaluationChangesOnlyItsOutputs i _ u he
    obtain ⟨is, hdec, hwf⟩ := ih u hlines hrun
    exact ⟨i :: is, by simp [hd, hdec], (wellFormed_cons_of_exec he hwf :)⟩

end Sys2Proof.Machine
end

section
/-! A change of an input in the course of a run (R331): what the drive undrives, which lines it puts before the others, and that
the run to the end settles them. -/

namespace Sys2Proof.Machine

/-- Where the lines are single-assignment, a line that a change reaches has a changed name among its own or uses an output of
another line reached. -/
theorem reached_of_mem_stale {changed : List Name} {ls : List Line}
    (hp : ls.Pairwise fun l k => ∀ n ∈ k.outs, n ∉ l.outs ∧ n ∉ l.uses) {l : Line} (hl : l ∈ (splitStale changed ls).2) :
    (∃ m ∈ changed, m ∈ l.uses ∨ m ∈ l.outs) ∨ ∃ k ∈ (splitStale changed ls).2, ∃ m ∈ k.outs, m ∈ l.uses := by
  induction ls generalizing changed with
  | nil => cases hl
  | cons j ls ih =>
    obtain ⟨hj, hp⟩ := List.pairwise_cons.mp hp
    unfold splitStale at hl ⊢
    by_cases ht : touches changed j = true
    · simp only [ht, if_true] at hl ⊢
      rcases List.mem_cons.mp hl with rfl | hl
      · left
        by_contra hnone
        push Not at hnone
        exact Bool.false_ne_true ((touches_eq_false.mpr hnone).symm.trans ht)
      · rcases ih hp hl with ⟨m, hm, hml⟩ | ⟨k, hk, hkl⟩
        · rcases List.mem_append.mp hm with hm | hm
          · exact Or.inl ⟨m, hm, hml⟩
          · have houts : m ∉ l.outs := fun ho => (hj l ((splitStale_sublist _ ls).2.subset hl) m ho).1 hm
            exact Or.inr ⟨j, List.mem_cons_self, m, hm, hml.resolve_right houts⟩
        · exact Or.inr ⟨k, List.mem_cons_of_mem j hk, hkl⟩
    · simp only [ht] at hl ⊢
      exact ih hp hl

section
variable {s : State} {n : Name} {v : Value} (hv : s.nets.get n ≠ some v)
include hv

theorem drive_lines_of_ne : (s.drive n v).lines = (splitStale [n] s.evaluated).2 ++ s.lines := by
  rw [drive_of_ne hv]; rfl

theorem drive_evaluated_of_ne : (s.drive n v).evaluated = (splitStale [n] s.evaluated).1 := by
  rw [drive_of_ne hv]; rfl

/-- Any other name than the one driven with a new value reads as after its release. -/
theorem get_drive_other {m : Name} (hm : m ≠ n) :
    (s.drive n v).nets.get m =
      if ∃ l ∈ (splitStale [n] s.evaluated).2, m ∈ l.outs then none else s.nets.get m := by
  rw [drive_of_ne hv]
  exact (get_set_other _ v hm.symm).trans ((get_release s n m).trans (by simp [hm]))

end

/-- Settles O56: `again` are the lines the change reaches, those of the split of the evaluated lines at the name driven. -/
theorem changedInputUndefinesItsOutputs : Obligations.ChangedInputUndefinesItsOutputs := by
  refine fun s n v => ⟨drive_of_eq, fun hv => ?_⟩
  have hundriven : ∀ l ∈ (splitStale [n] s.evaluated).2, ∀ m ∈ l.outs, m ≠ n → (s.drive n v).nets.get m = none :=
    fun l hl m hm hmn => (get_drive_other hv hmn).trans (if_pos ⟨l, hl, hm⟩)
  rw [drive_lines_of_ne hv, drive_evaluated_of_ne hv]
  refine ⟨get_drive_self s n v, drive_rawBits s n v, fun l hl hn => hundriven l (mem_stale_of_touches hl ?_),
    (splitStale [n] s.evaluated).2, rfl, splitStale_perm [n] s.evaluated, (splitStale_sublist [n] s.evaluated).2,
    (splitStale_sublist [n] s.evaluated).1, hundriven, fun m hmn hm => ?_, fun hs => ⟨fun k hk => ?_, fun l hl => ?_⟩⟩
  · simp [touches, hn]
  · exact (get_drive_other hv hmn).trans (if_neg fun ⟨l, hl, ho⟩ => hm l hl ho)
  · exact ⟨(hs.kept_apart hk (Or.inl rfl)).1, fun l hl m hm => (hs.kept_apart hk (Or.inr ⟨l, hl, hm⟩)).1⟩
  · simpa [or_assoc] using reached_of_mem_stale hs.2 hl

/-! Runs. -/

/-- What every step keeps, a run keeps. -/
theorem run_keeps {P : State → Prop} (hstep : ∀ s t, P s → step s = .next t → P t) {k : Nat} {s t : State} (hs : P s)
    (h : Host.Core.run core k s = .next t) : P t := by
  induction k generalizing s with
  | zero => cases h; exact hs
  | succ k ih =>
    obtain ⟨u, hu, hrun⟩ := run_succ_eq_next.mp h
    exact ih (hstep s u hs hu) hrun

/-- A run of as many steps as there are lines leaves no line, all of them evaluated. -/
theorem run_lines {s t : State} (h : Host.Core.run core s.lines.length s = .next t) :
    t.lines = [] ∧ t.evaluated = s.evaluated ++ s.lines := by
  induction hls : s.lines generalizing s with
  | nil => rw [hls] at h; cases h; exact ⟨hls, (List.append_nil _).symm⟩
  | cons l ls ih =>
    rw [hls] at h
    obtain ⟨u, hu, hrun⟩ := run_succ_eq_next.mp h
    obtain ⟨l', hl, heval⟩ := step_lines hu
    cases hls.symm.trans hl
    obtain ⟨hnil, hall⟩ := ih hrun rfl
    exact ⟨hnil, by rw [hall, heval, List.append_assoc, List.singleton_append]⟩

/-- A step that answers a next state leaves every driven name its value. -/
theorem get_step_of_driven {s t : State} (h : step s = .next t) {n : Name} {v : Value} (hv : s.nets.get n = some v) :
    t.nets.get n = some v := by
  obtain ⟨l, ls, i, -, -, he⟩ := step_eq_next.mp h
  exact get_exec_of_driven he hv

/-- A drive loses none of the lines, evaluated or still to come. -/
theorem drive_lines_perm (s : State) (n : Name) (v : Value) :
    ((s.drive n v).evaluated ++ (s.drive n v).lines).Perm (s.evaluated ++ s.lines) := by
  by_cases hv : s.nets.get n = some v
  · rw [drive_of_eq hv]
  · rw [drive_lines_of_ne hv, drive_evaluated_of_ne hv, ← List.append_assoc]
    exact (splitStale_perm [n] s.evaluated).append_right s.lines

/-- Settles O57: drives and steps keep the state settled and lose no line, and the second run leaves no line to evaluate. -/
theorem noEarlierInputAffectsTheEnd : Obligations.NoEarlierInputAffectsTheEnd := by
  intro s u t n v hs hrun hrun'
  have hsettled : t.Settled :=
    run_keeps (fun _ _ => settled_step) (settled_drive (run_keeps (fun _ _ => settled_step) hs hrun) n v) hrun'
  obtain ⟨hunil, hueval⟩ := run_lines hrun
  obtain ⟨htnil, hteval⟩ := run_lines hrun'
  have hperm : t.evaluated.Perm (s.evaluated ++ s.lines) :=
    calc t.evaluated = (u.drive n v).evaluated ++ (u.drive n v).lines := hteval
      List.Perm _ (u.evaluated ++ u.lines) := drive_lines_perm u n v
      _ = s.evaluated ++ s.lines := by rw [hunil, List.append_nil, hueval]
  exact ⟨htnil, hperm, run_keeps (fun _ _ hv hstep => get_step_of_driven hstep hv) (get_drive_self u n v) hrun',
    fun l hl => hsettled.1 l (hperm.mem_iff.mpr hl)⟩

end Sys2Proof.Machine
end

section
/-! Gate counts and gate depths (R337, R338). -/

namespace Sys2Proof.Machine.Timing

/-- Settles O52: the counts are closed sums. -/
theorem gateCountsOfUnits : Obligations.GateCountsOfUnits :=
  ⟨rfl, rfl, rfl, rfl, rfl, rfl, rfl, rfl, rfl, rfl⟩

/-- The full adder's second half adder waits for the first one's sum or for c; the OR is a level after it. -/
theorem fullAdderDepth_eq (a b c : Nat) :
    fullAdderDepth a b c = (max (max a b + 1) c + 1, max (max a b + 1) c + 2) := by
  simp only [fullAdderDepth, halfAdderDepth, gateDepth, Prod.mk.injEq, true_and]
  omega

/-- Past the first position the carry is the latest input of every full adder, so it ripples at two levels a position. -/
theorem carryDepth_succ (d k : Nat) : carryDepth d (k + 1) = d + 2 * k + 3 := by
  induction k with
  | zero => simp [carryDepth, fullAdderDepth_eq]
  | succ k ih =>
    rw [carryDepth, ih, fullAdderDepth_eq]
    omega

theorem sumDepth_eq (d k : Nat) : sumDepth d k = d + 2 * k + 2 := by
  cases k with
  | zero => simp [sumDepth, carryDepth, fullAdderDepth_eq]
  | succ k =>
    rw [sumDepth, carryDepth_succ, fullAdderDepth_eq]
    omega

/-- The latest of the low sum bits is the last of them. -/
theorem foldl_max_sumDepth (d n : Nat) :
    (List.range (n + 1)).foldl (fun m k => max m (sumDepth d k)) 0 = d + 2 * n + 2 := by
  induction n with
  | zero => simp [sumDepth_eq]
  | succ n ih =>
    rw [List.range_succ, List.foldl_append, ih]
    simp only [List.foldl_cons, List.foldl_nil, sumDepth_eq]
    omega

theorem adder16Depth_eq (d : Nat) : adder16Depth d = d + 32 := foldl_max_sumDepth d 15

/-- Settles O53: along the alu the complement is the later operand of each mux16 it feeds, and the sum that of the function
selection. -/
theorem gateDepthsOfUnits : Obligations.GateDepthsOfUnits := by
  refine ⟨rfl, rfl, fun d => ?_, fun k => ⟨?_, ?_⟩, sumDepth_eq 0 15, carryDepth_succ 0 15, adder16Depth_eq 0,
    adder16Depth_eq 0, rfl, rfl, fun M Z => ?_⟩
  · rw [fullAdderDepth_eq]
    omega
  · rw [sumDepth_eq, Nat.zero_add]
  · rw [carryDepth_succ, Nat.zero_add]
  · simp only [aluDepthsWith, adder16Depth_eq, mux16Depth, not16Depth, and16Depth, gateDepth, AluDepths.mk.injEq]
    omega

end Sys2Proof.Machine.Timing
end

section
/-! Lines and instructions (R70, R72, R81): the decoder undoes the encoder, and a line that no alias selects is the encoder's
own. -/

namespace Sys2Proof

/-- Settles O6, constructor by constructor; the control codes share one argument, since a code's byte narrows to the code. -/
theorem decodeOfEncodeIsTheInstruction : Obligations.DecodeOfEncodeIsTheInstruction := by
  intro i
  cases i with
  | and o a b => exact Laws.RoundTrip.and o a b
  | or o a b => exact Laws.RoundTrip.or o a b
  | not o a => exact Laws.RoundTrip.not o a
  | nand o a b => exact Laws.RoundTrip.nand o a b
  | xor o a b => exact Laws.RoundTrip.xor o a b
  | halfAdder s k a b => exact Laws.RoundTrip.halfAdder s k a b
  | fullAdder s k a b c => exact Laws.RoundTrip.fullAdder s k a b c
  | adder16 o A B => exact Laws.RoundTrip.adder16 o A B
  | inc16 o A => exact Laws.RoundTrip.inc16 o A
  | mux16 o A B sel => exact Laws.RoundTrip.mux16 o A B sel
  | not16 o A => exact Laws.RoundTrip.not16 o A
  | and16 o A B => exact Laws.RoundTrip.and16 o A B
  | alu d x y zx nx zy ny f no => exact Laws.RoundTrip.alu d x y zx nx zy ny f no
  | _ d x y => exact decode_codeLine (by decide) d x y

/-! A decoder that reads a source or the output names and goes on: what it read is spelled in one way only. -/

theorem read_bind_eq_ok {τ α β : Type} {read : τ → Except DecodeError α} {spell : α → τ} {t : τ}
    {f : α → Except DecodeError β} {b : β} (hread : ∀ a, read (spell a) = .ok a)
    (hspell : ∀ {t a}, read t = .ok a → spell a = t) : (read t >>= f) = .ok b ↔ ∃ a, t = spell a ∧ f a = .ok b := by
  constructor
  · intro h
    obtain ⟨a, ha, hf⟩ := ok_bind h
    exact ⟨a, (hspell ha).symm, hf⟩
  · rintro ⟨a, rfl, hf⟩
    rw [hread]
    exact hf

theorem asBit_bind_eq_ok {β : Type} {t : Src} {f : BitSrc → Except DecodeError β} {b : β} :
    (t.asBit >>= f) = .ok b ↔ ∃ a : BitSrc, t = a.src ∧ f a = .ok b :=
  read_bind_eq_ok asBit_src src_of_asBit

theorem asWord_bind_eq_ok {β : Type} {t : Src} {f : WordSrc → Except DecodeError β} {b : β} :
    (t.asWord >>= f) = .ok b ↔ ∃ A : WordSrc, t = A.src ∧ f A = .ok b :=
  read_bind_eq_ok asWord_src src_of_asWord

theorem asAluDest_bind_eq_ok {β : Type} {ns : List Name} {f : AluDest → Except DecodeError β} {b : β} :
    (asAluDest ns >>= f) = .ok b ↔ ∃ d : AluDest, ns = d.names ∧ f d = .ok b :=
  read_bind_eq_ok asAluDest_names names_of_asAluDest

/-! What each form of line decodes to, and from which outputs and sources alone. -/

section
variable {l : Line} {i : Instr}

theorem decodeBit1_inv {mk : Name → BitSrc → Instr} (h : decodeBit1 mk l = .ok i) :
    ∃ o a, l.outs = [o] ∧ l.ins = [BitSrc.src a] ∧ i = mk o a := by
  unfold decodeBit1 at h
  split at h
  next o _ houts hins =>
    obtain ⟨a, rfl, ⟨⟩⟩ := asBit_bind_eq_ok.mp h
    exact ⟨o, a, houts, hins, rfl⟩
  next => cases h

theorem decodeBit2_inv {mk : Name → BitSrc → BitSrc → Instr} (h : decodeBit2 mk l = .ok i) :
    ∃ o a b, l.outs = [o] ∧ l.ins = [BitSrc.src a, BitSrc.src b] ∧ i = mk o a b := by
  unfold decodeBit2 at h
  split at h
  next o _ _ houts hins =>
    simp only [asBit_bind_eq_ok] at h
    obtain ⟨a, rfl, b, rfl, ⟨⟩⟩ := h
    exact ⟨o, a, b, houts, hins, rfl⟩
  next => cases h

theorem decodeHalfAdder_inv (h : decodeHalfAdder l = .ok i) :
    ∃ s k a b, l.outs = [s, k] ∧ l.ins = [BitSrc.src a, BitSrc.src b] ∧ i = .halfAdder s k a b := by
  unfold decodeHalfAdder at h
  split at h
  next s k _ _ houts hins =>
    simp only [asBit_bind_eq_ok] at h
    obtain ⟨a, rfl, b, rfl, ⟨⟩⟩ := h
    exact ⟨s, k, a, b, houts, hins, rfl⟩
  next => cases h

theorem decodeFullAdder_inv (h : decodeFullAdder l = .ok i) :
    ∃ s k a b c, l.outs = [s, k] ∧ l.ins = [BitSrc.src a, BitSrc.src b, BitSrc.src c] ∧ i = .fullAdder s k a b c := by
  unfold decodeFullAdder at h
  split at h
  next s k _ _ _ houts hins =>
    simp only [asBit_bind_eq_ok] at h
    obtain ⟨a, rfl, b, rfl, c, rfl, ⟨⟩⟩ := h
    exact ⟨s, k, a, b, c, houts, hins, rfl⟩
  next => cases h

theorem decodeWord1_inv {mk : Name → WordSrc → Instr} (h : decodeWord1 mk l = .ok i) :
    ∃ o A, l.outs = [o] ∧ l.ins = [WordSrc.src A] ∧ i = mk o A := by
  unfold decodeWord1 at h
  split at h
  next o _ houts hins =>
    obtain ⟨A, rfl, ⟨⟩⟩ := asWord_bind_eq_ok.mp h
    exact ⟨o, A, houts, hins, rfl⟩
  next => cases h

theorem decodeWord2_inv {mk : Name → WordSrc → WordSrc → Instr} (h : decodeWord2 mk l = .ok i) :
    ∃ o A B, l.outs = [o] ∧ l.ins = [WordSrc.src A, WordSrc.src B] ∧ i = mk o A B := by
  unfold decodeWord2 at h
  split at h
  next o _ _ houts hins =>
    simp only [asWord_bind_eq_ok] at h
    obtain ⟨A, rfl, B, rfl, ⟨⟩⟩ := h
    exact ⟨o, A, B, houts, hins, rfl⟩
  next => cases h

theorem decodeMux16_inv (h : decodeMux16 l = .ok i) :
    ∃ o A B sel, l.outs = [o] ∧ l.ins = [WordSrc.src A, WordSrc.src B, BitSrc.src sel] ∧ i = .mux16 o A B sel := by
  unfold decodeMux16 at h
  split at h
  next o _ _ _ houts hins =>
    simp only [asWord_bind_eq_ok, asBit_bind_eq_ok] at h
    obtain ⟨A, rfl, B, rfl, sel, rfl, ⟨⟩⟩ := h
    exact ⟨o, A, B, sel, houts, hins, rfl⟩
  next => cases h

theorem decodeAlu_inv (h : decodeAlu l = .ok i) :
    ∃ d x y zx nx zy ny f no, l.outs = AluDest.names d ∧
      l.ins = [WordSrc.src x, WordSrc.src y, BitSrc.src zx, BitSrc.src nx, BitSrc.src zy, BitSrc.src ny, BitSrc.src f,
        BitSrc.src no] ∧ i = .alu d x y zx nx zy ny f no := by
  unfold decodeAlu at h
  split at h
  next _ _ _ _ _ _ _ _ hins =>
    simp only [asAluDest_bind_eq_ok, asWord_bind_eq_ok, asBit_bind_eq_ok] at h
    obtain ⟨d, hd, x, rfl, y, rfl, zx, rfl, nx, rfl, zy, rfl, ny, rfl, f, rfl, no, rfl, ⟨⟩⟩ := h
    exact ⟨d, x, y, zx, nx, zy, ny, f, no, hd, hins, rfl⟩
  next => cases h

theorem decodeCode_inv {c : BitVec 6} (h : decodeCode c l = .ok i) :
    ∃ d x y, l.outs = AluDest.names d ∧ l.ins = [WordSrc.src x, WordSrc.src y] ∧ i = Instr.ofCode c d x y := by
  unfold decodeCode at h
  split at h
  next _ _ hins =>
    simp only [asAluDest_bind_eq_ok, asWord_bind_eq_ok] at h
    obtain ⟨d, hd, x, rfl, y, rfl, ⟨⟩⟩ := h
    exact ⟨d, x, y, hd, hins, rfl⟩
  next => cases h

end

/-! The encoder writes a code as the byte that the decoder narrows to it (R72). -/

theorem encode_codeInstr (d : AluDest) (x y : WordSrc) (zx nx zy ny f no : Bit) :
    encode (codeInstr d x y zx nx zy ny f no) = codeLine ((Machine.packCode zx nx zy ny f no).setWidth 8) d x y := by
  cases zx <;> cases nx <;> cases zy <;> cases ny <;> cases f <;> cases no <;> rfl

theorem packCode_getLsbD (c : BitVec 6) :
    Machine.packCode (c.getLsbD 5) (c.getLsbD 4) (c.getLsbD 3) (c.getLsbD 2) (c.getLsbD 1) (c.getLsbD 0) = c := by
  revert c; decide

theorem encode_ofCode (c : BitVec 6) (d : AluDest) (x y : WordSrc) :
    encode (Instr.ofCode c d x y) = codeLine (c.setWidth 8) d x y := by
  rw [Instr.ofCode, encode_codeInstr, packCode_getLsbD]

/-- Nothing is lost of a byte below 64 in its six low bits. -/
theorem setWidth_setWidth_of_lt {b : Byte} (h : b.toNat < 64) : (b.setWidth 6).setWidth 8 = b := by
  refine BitVec.eq_of_toNat_eq ?_
  simp only [BitVec.toNat_setWidth]
  omega

/-- A line selected by a control byte that decodes is the encoder's. -/
theorem encode_of_decode_code {b : Byte} {outs : List Name} {ins : List Src} {i : Instr}
    (h : decode ⟨.code b, outs, ins⟩ = .ok i) : encode i = ⟨.code b, outs, ins⟩ := by
  simp only [decode] at h
  split at h
  next hb =>
    obtain ⟨d, x, y, rfl, rfl, rfl⟩ := decodeCode_inv h
    rw [encode_ofCode, setWidth_setWidth_of_lt hb, codeLine]
  next => cases h

/-- A line selected by a unit's name that decodes is the encoder's. -/
theorem encode_of_decode_cell {u : Cell} {outs : List Name} {ins : List Src} {i : Instr}
    (h : decode ⟨.cell u, outs, ins⟩ = .ok i) : encode i = ⟨.cell u, outs, ins⟩ := by
  cases u with
  | and | or | nand | xor => obtain ⟨o, a, b, rfl, rfl, rfl⟩ := decodeBit2_inv h; rfl
  | not => obtain ⟨o, a, rfl, rfl, rfl⟩ := decodeBit1_inv h; rfl
  | halfAdder => obtain ⟨s, k, a, b, rfl, rfl, rfl⟩ := decodeHalfAdder_inv h; rfl
  | fullAdder => obtain ⟨s, k, a, b, c, rfl, rfl, rfl⟩ := decodeFullAdder_inv h; rfl
  | adder16 | and16 => obtain ⟨o, A, B, rfl, rfl, rfl⟩ := decodeWord2_inv h; rfl
  | inc16 | not16 => obtain ⟨o, A, rfl, rfl, rfl⟩ := decodeWord1_inv h; rfl
  | mux16 => obtain ⟨o, A, B, sel, rfl, rfl, rfl⟩ := decodeMux16_inv h; rfl
  | alu => obtain ⟨d, x, y, zx, nx, zy, ny, f, no, rfl, rfl, rfl⟩ := decodeAlu_inv h; rfl

/-- Settles O7: each form of line fixes its outputs and sources by the instruction, and a control byte is below 64. -/
theorem decodableLineIsCanonical : Obligations.DecodableLineIsCanonical := by
  rintro ⟨sel, outs, ins⟩ i h hsel
  cases sel with
  | cell u => exact encode_of_decode_cell h
  | code b => exact encode_of_decode_code h
  | pseudo p => exact absurd rfl (hsel p)

/-- Settles O5: the decoder run on the six lines. -/
theorem specWordsDecode : Obligations.SpecWordsDecode :=
  ⟨rfl, rfl, rfl, rfl, rfl, rfl⟩

end Sys2Proof
end

section
/-! Positions of a word stay in place (R130): a lane of a lane-wise chip reads its own position, and the carry into a position
of the adder the positions below it. -/

namespace Sys2Proof.Machine

theorem getLsbD_mux16 (A B : Word16) (sel : Bit) (k : Nat) :
    (mux16 A B sel).getLsbD k = if sel then B.getLsbD k else A.getLsbD k := by
  cases sel <;> rfl

/-- The carry into a position depends on the positions below it alone. -/
theorem carryAt_congr {A A' B B' : Word16} {k : Nat}
    (h : ∀ j, j < k → A.getLsbD j = A'.getLsbD j ∧ B.getLsbD j = B'.getLsbD j) : carryAt A B k = carryAt A' B' k := by
  induction k with
  | zero => rfl
  | succ k ih =>
    obtain ⟨hA, hB⟩ := h k (Nat.lt_succ_self k)
    rw [carryAt, carryAt, hA, hB, ih fun j hj => h j (Nat.lt_succ_of_lt hj)]

theorem getLsbD_adder16 (A B : Word16) {k : Nat} (hk : k < 16) :
    (adder16 A B).getLsbD k = (fullAdder (A.getLsbD k) (B.getLsbD k) (carryAt A B k)).1 :=
  getLsbD_mapBits_of_lt _ hk

theorem getLsbD_adder16_congr {A A' B B' : Word16} {k : Nat} (hk : k < 16)
    (h : ∀ j, j ≤ k → A.getLsbD j = A'.getLsbD j ∧ B.getLsbD j = B'.getLsbD j) :
    (adder16 A B).getLsbD k = (adder16 A' B').getLsbD k := by
  obtain ⟨hA, hB⟩ := h k le_rfl
  rw [getLsbD_adder16 A B hk, getLsbD_adder16 A' B' hk, hA, hB, carryAt_congr fun j hj => h j hj.le]

/-- Settles O19: the lane-wise chips lane by lane, the adder by its rippling carry, and inc16 as the adder with 0x0001. -/
theorem bitPositionsStayInPlace : Obligations.BitPositionsStayInPlace := by
  intro A A' B B' sel k hk hA hB
  refine ⟨?_, ?_, ?_, fun hbelow => ?_⟩
  · rw [getLsbD_not16 A hk, getLsbD_not16 A' hk, hA]
  · rw [getLsbD_and16 A B hk, getLsbD_and16 A' B' hk, hA, hB]
  · rw [getLsbD_mux16, getLsbD_mux16, hA, hB]
  · have hupto : ∀ j, j ≤ k → A.getLsbD j = A'.getLsbD j ∧ B.getLsbD j = B'.getLsbD j := fun j hj =>
      hj.eq_or_lt.elim (fun hjk => hjk ▸ ⟨hA, hB⟩) (hbelow j)
    exact ⟨getLsbD_adder16_congr hk hupto, getLsbD_adder16_congr hk fun j hj => ⟨(hupto j hj).1, rfl⟩⟩

end Sys2Proof.Machine
end

section
/-! Steps (D15, R81): what a step does with the next line, and the state it starts from; and the order of two evaluations of
which neither uses what the other defines. -/

namespace Sys2Proof.Machine

/-- Settles O1: the fields of `State.reset` as they are written. -/
theorem resetDrivesNothing : Obligations.ResetDrivesNothing :=
  ⟨fun _ => rfl, rfl, rfl, rfl⟩

/-- Settles O2: no name is driven, so each part of the invariant holds of no value. -/
theorem resetMeetsRunInvariant : Obligations.ResetMeetsRunInvariant :=
  ⟨rfl, rfl, rfl⟩

theorem step_of_decode_error {s : State} {l : Line} {ls : List Line} {e : DecodeError} (hl : s.lines = l :: ls)
    (hd : decode l = .error e) : step s = .refused (.badLine e) := by
  simp [step, State.fetch, hl, hd]

theorem step_of_no_lines {s : State} (hl : s.lines = []) : step s = .refused .runEnded := by
  simp [step, fetch_eq_none.mpr hl]

/-- Settles O3, a clause for each of the three ways a step can begin. -/
theorem stepEvaluatesDecodedLine : Obligations.StepEvaluatesDecodedLine :=
  ⟨fun _ _ _ _ => step_of_decode, fun _ _ _ _ => step_of_decode_error, fun _ => step_of_no_lines⟩

/-- The line of a table word of six bits is the code's line with the filler operands. -/
theorem tableLine_eq_codeLine (c : BitVec 6) :
    tableLine 8 c.toNat = codeLine (c.setWidth 8) ⟨0, some (1, 2)⟩ (.lit 0#16) (.lit 0#16) := by
  have hc : c.toNat < 256 := Nat.lt_trans c.isLt (by decide)
  simp [tableLine, hc, codeLine, AluDest.names, WordSrc.src]

theorem decode_tableLine (c : BitVec 6) :
    decode (tableLine 8 c.toNat) = .ok (Instr.ofCode c ⟨0, some (1, 2)⟩ (.lit 0#16) (.lit 0#16)) := by
  rw [tableLine_eq_codeLine, decode_code_setWidth]

/-- Settles O4: the table word's line decodes to the code's instruction, and the next step is on that line. -/
theorem tableWordIsNextStep : Obligations.TableWordIsNextStep := fun s c =>
  ⟨by rw [decodeTableWord, decode_tableLine], step_of_decode (s := s.withFetchWord 8 c.toNat) rfl (decode_tableLine c)⟩

/-- Settles O44: a step is the evaluation of the next line, which drives new names alone, those of the line. -/
theorem stepTakesOneLineOff : Obligations.StepTakesOneLineOff := by
  intro s t h
  obtain ⟨l, ls, i, hl, hd, he⟩ := step_eq_next.mp h
  obtain ⟨-, -, frame, -, hlines, heval, hraw⟩ := evaluationChangesOnlyItsOutputs i _ t he
  rw [(decode_names hd).1] at frame
  exact ⟨l, by rw [hl, hlines], heval, frame, fun n v => get_step_of_driven h, hraw⟩

/-! Two evaluations in either order. -/

/-- Distinct names set read alike in every map. -/
theorem get_setAll_congr {outs : List (Name × Value)} (hd : (outs.map Prod.fst).Nodup) {n : Name}
    (hn : n ∈ outs.map Prod.fst) (m m' : Nets) : (m.setAll outs).get n = (m'.setAll outs).get n := by
  obtain ⟨o, ho, rfl⟩ := List.mem_map.mp hn
  rw [get_setAll_mem m hd ho, get_setAll_mem m' hd ho]

/-- In a canonical map two groups of names with none in common can be set in either order. -/
theorem setAll_comm {m : Nets} (hm : m.wf = true) {as bs : List (Name × Value)} (ha : (as.map Prod.fst).Nodup)
    (hb : (bs.map Prod.fst).Nodup) (hab : ∀ n ∈ bs.map Prod.fst, n ∉ as.map Prod.fst) :
    (m.setAll as).setAll bs = (m.setAll bs).setAll as := by
  refine eq_of_get (wf_setAll (wf_setAll hm as) bs) (wf_setAll (wf_setAll hm bs) as) fun n => ?_
  by_cases hn : n ∈ bs.map Prod.fst
  · rw [get_setAll_other _ (hab n hn)]
    exact get_setAll_congr hb hn _ _
  · rw [get_setAll_other _ hn]
    by_cases hn' : n ∈ as.map Prod.fst
    · exact get_setAll_congr ha hn' _ _
    · rw [get_setAll_other _ hn', get_setAll_other _ hn', get_setAll_other _ hn]

theorem commit_comm {s : State} (hs : s.nets.wf = true) {as bs : List (Name × Value)} (ha : (as.map Prod.fst).Nodup)
    (hb : (bs.map Prod.fst).Nodup) (hab : ∀ n ∈ bs.map Prod.fst, n ∉ as.map Prod.fst) :
    (s.commit as).commit bs = (s.commit bs).commit as := by
  simp only [State.commit, setAll_comm hs ha hb hab]

/-- A next state in one of two states that present the same is a commit of outputs that the other one commits too. -/
theorem SameInputs.next_commit {s t s' : State} {i : Instr} (h : SameInputs s t i) (hs : exec i s = .next s') :
    ∃ outs, outs.map Prod.fst = i.dests ∧ s' = s.commit outs ∧
      (NewNames t i.dests → exec i t = .next (t.commit outs)) := by
  obtain ⟨outs, hes, het, hd⟩ := exec_congr h
  obtain ⟨hp, -, hi, rfl⟩ := evaluate_eq_next.mp (hes ▸ hs)
  exact ⟨outs, hd, rfl, fun hn => het.trans (evaluate_eq_next.mpr
    ⟨fun p hm => (h.portReady_iff hm).mp (hp p hm), hd ▸ hn, h.illegalInputs_eq ▸ hi, rfl⟩)⟩

/-- An evaluation presents the same as before to an instruction that uses none of its outputs. -/
theorem sameInputs_of_exec {i j : Instr} {s t : State} (h : exec i s = .next t) (hj : ∀ n ∈ j.uses, n ∉ i.dests) :
    SameInputs s t j := by
  obtain ⟨-, -, frame, -, -, -, hraw⟩ := evaluationChangesOnlyItsOutputs i s t h
  exact ⟨hraw.symm, fun n hn => (frame n (hj n hn)).symm⟩

/-- A name that is undriven after an evaluation was undriven before it. -/
theorem undriven_of_exec {i : Instr} {s t : State} (h : exec i s = .next t) {n : Name} (hn : t.nets.get n = none) :
    s.nets.get n = none := by
  by_contra hdriven
  obtain ⟨v, hv⟩ := Option.ne_none_iff_exists'.mp hdriven
  exact Option.some_ne_none v ((get_exec_of_driven h hv).symm.trans hn)

/-- A name that is undriven after an evaluation is none of its inputs and none of its outputs. -/
theorem not_mem_names_of_undriven {i : Instr} {s t : State} (h : exec i s = .next t) {n : Name}
    (hn : t.nets.get n = none) : n ∉ i.uses ∧ n ∉ i.dests := by
  refine ⟨fun hu => ?_, fun hd => exec_drives_dests h hd hn⟩
  obtain ⟨-, -, -, -, hports, -, -, -⟩ := exec_eq_next h
  obtain ⟨p, hp, hsrc⟩ := (mem_uses_iff i n).mp hu
  exact (hports p hp).net_driven hsrc (undriven_of_exec h hn)

/-- Settles O46: neither instruction uses or defines an output of the other, so each presents the same to the other and they
commit the same outputs, to a canonical map in either order. -/
theorem evaluationOrderDoesNotMatter : Obligations.EvaluationOrderDoesNotMatter := by
  intro i j s u t hwf hi hj hindep
  obtain ⟨-, -, -, -, -, hnewi, -, -⟩ := exec_eq_next hi
  obtain ⟨-, -, -, -, -, hnewj, -, -⟩ := exec_eq_next hj
  have hapart : ∀ n ∈ j.dests, n ∉ i.uses ∧ n ∉ i.dests := fun n hn => not_mem_names_of_undriven hi (hnewj.2 n hn)
  obtain ⟨bs, hbs, rfl, hjs⟩ := (sameInputs_of_exec hi hindep).symm.next_commit hj
  have hjs : exec j s = .next (s.commit bs) := hjs ⟨hnewj.1, fun n hn => undriven_of_exec hi (hnewj.2 n hn)⟩
  have hsame : SameInputs s (s.commit bs) i := sameInputs_of_exec hjs fun n hu hn => (hapart n hn).1 hu
  obtain ⟨as, has, rfl, his⟩ := hsame.next_commit hi
  have his : exec i (s.commit bs) = .next ((s.commit bs).commit as) := his ⟨hnewi.1, fun n hn =>
    (get_setAll_other s.nets (hbs ▸ fun hm => (hapart n hm).2 hn)).trans (hnewi.2 n hn)⟩
  refine ⟨s.commit bs, hjs, ?_⟩
  rw [← has] at hnewi hapart
  rw [← hbs] at hnewj hapart
  rw [his, commit_comm hwf hnewi.1 hnewj.1 fun n hn => (hapart n hn).2]

end Sys2Proof.Machine
end
